-- ==== Sys2Proof/Word.lean ====
section
/-!
DEFINITION. The word types of BRS (00_scope.md R7, R9): 32-bit registers, 8-bit buffer bytes and 13-bit host offsets.
-/

namespace Sys2Proof

/-- A register or a 4-byte data value (00_scope.md R7). -/
abbrev Word := BitVec 32

/-- A byte of BUF or a 1-byte data value (10_state.md R33, 20_memory.md R50). -/
abbrev Byte := BitVec 8

/-- An offset of the host offset space, 0x0000 to 0x1FFF (00_scope.md R7). -/
abbrev Offset := BitVec 13

end Sys2Proof
end

