-- ==== Sys2Proof/Machine/Transaction.lean ====
section
/-!
DEFINITION. What the agents outside the engine do, as plain data: the host's operations (20_memory.md R50, 30_encoding.md R87), the
responses they get (20_memory.md R51), and the three agents that can move (00_scope.md R8, 70_reset_and_hazards.md R230).
-/

namespace Sys2Proof.Machine

/-- One thing a host does next. The block sees only transactions; `waitIdle` is the host's polling loop (30_encoding.md R87). -/
inductive HostOp where
  /-- `MemRead(off, n)` (20_memory.md R50). -/
  | read (off : Offset) (n : Nat)
  /-- `MemWrite(off, n, v)` (20_memory.md R50). For n = 1 the value is 8 bits, the low byte of `v` (log 14). -/
  | write (off : Offset) (n : Nat) (v : Word)
  /-- `WAIT_IDLE`: repeat `RD32 STATUS` until BUSY reads 0 (30_encoding.md R87; log 18). -/
  | waitIdle
  deriving DecidableEq, Repr

/-- The response of a transaction (20_memory.md R51). -/
inductive Resp where
  | okay
  | error
  deriving DecidableEq, Repr

/-- The data of a read: 8 bits for n = 1, 32 bits for n = 4 (20_memory.md R50, R67: a byte is not extended). -/
inductive Data where
  | byte (b : Byte)
  | word (w : Word)
  /-- The data of a read whose size does not exist: the response is ERROR and the data 0 (20_memory.md R50, R51; log 15). -/
  | other (d : Nat)
  deriving DecidableEq, Repr

/-- What a transaction returns to the host: `(resp, data)` for a read, `resp` for a write (20_memory.md R50). -/
inductive Response where
  | read (r : Resp) (d : Data)
  | write (r : Resp)
  deriving DecidableEq, Repr

/-- Who takes the next step (00_scope.md R8, 70_reset_and_hazards.md R230). -/
inductive Agent where
  /-- A host performs its next operation. -/
  | host
  /-- The engine completes the command in flight. -/
  | engine
  /-- The platform resets the block. -/
  | platform
  deriving DecidableEq, Repr

end Sys2Proof.Machine
end

