-- ==== Sys2Proof/Syntax.lean ====
section
/-!
DEFINITION. The six commands of BRS, one constructor per row of the opcode table (00_scope.md R2, 30_encoding.md R81). A command word has
no register field and no immediate field (30_encoding.md R80), so no constructor has an argument: operands come from registers (R84).
-/

namespace Sys2Proof

/-- The commands (00_scope.md R2): the six words a write to CMD can select. -/
inductive Instr where
  /-- SHL: one-bit left shift of the whole buffer (41_shift.md R124). -/
  | shl
  /-- SHR: one-bit right shift of the whole buffer (41_shift.md R128). -/
  | shr
  /-- ROL: left rotation of the whole buffer (42_rotate.md R142). -/
  | rol
  /-- ROR: right rotation of the whole buffer (42_rotate.md R143). -/
  | ror
  /-- ROLW: left rotation of the window (43_rotate_window.md R164). -/
  | rolw
  /-- RORW: right rotation of the window (43_rotate_window.md R165). -/
  | rorw
  deriving DecidableEq, Repr, Inhabited

end Sys2Proof
end

