-- ==== Sys2Proof/WellFormed.lean ====
section
/-!
DEFINITION. Well-formed commands and well-formed host operations. A command has no operand field to check (30_encoding.md R80). A 1-byte write
carries an 8-bit value (20_memory.md R50). A size other than 1 or 4 is NOT ill-formed: the spec says what such a transaction gets.
-/

namespace Sys2Proof

/-- Every command is well-formed: it has no operand (30_encoding.md R80). -/
def Instr.wellFormed : Instr → Bool
  | .shl => true
  | .shr => true
  | .rol => true
  | .ror => true
  | .rolw => true
  | .rorw => true

/-- A host operation is well-formed when the value of a 1-byte write fits 8 bits (20_memory.md R50). -/
def Machine.HostOp.wellFormed : Machine.HostOp → Bool
  | .read _ _ => true
  | .write _ n v => n != 1 || v.toNat < 256
  | .waitIdle => true

end Sys2Proof
end

