-- ==== Sys2Proof/Decode.lean ====
section
/-!
DEFINITION. The command word (30_encoding.md R80), its decoder, total on every 32-bit word (R82), and the encoder from the opcode map (R81).
Also the table interface `decodeTableWord` of the host. A command word is one 4-byte transaction (R85), so there is no byte order and
no length to decode.
-/

namespace Sys2Proof

/-- The RSV field, bits 31:3 (30_encoding.md R80). -/
def rsvField (v : Word) : BitVec 29 := v.extractLsb' 3 29

/-- The MODE field, bits 2:1 (30_encoding.md R80). -/
def modeField (v : Word) : BitVec 2 := v.extractLsb' 1 2

/-- The DIR field, bit 0: 0 left, 1 right (30_encoding.md R80). -/
def dirField (v : Word) : BitVec 1 := v.extractLsb' 0 1

/-- Why a word is illegal (30_encoding.md R83). The two names are the model's: the block reports one code for both (log 23). -/
inductive IllegalWord where
  /-- A bit of RSV is set. -/
  | reservedBits
  /-- RSV is 0 and MODE is 00. -/
  | reservedMode
  deriving DecidableEq, Repr

/-- What a word presented to CMD is: one of the six commands or illegal (30_encoding.md R82). -/
inductive Decoded where
  | command (i : Instr)
  | illegal (why : IllegalWord)
  deriving DecidableEq, Repr

/-- Decoding, a total function of the word (30_encoding.md R82). -/
def decode (v : Word) : Decoded :=
  if rsvField v ≠ 0#29 then .illegal .reservedBits
  else if modeField v = 0b00#2 then .illegal .reservedMode
  else if modeField v = 0b01#2 then (if dirField v = 0#1 then .command .shl else .command .shr)
  else if modeField v = 0b10#2 then (if dirField v = 0#1 then .command .rol else .command .ror)
  else (if dirField v = 0#1 then .command .rolw else .command .rorw)

/-- The MODE of a command (30_encoding.md R81). -/
def modeOf : Instr → BitVec 2
  | .shl => 0b01#2
  | .shr => 0b01#2
  | .rol => 0b10#2
  | .ror => 0b10#2
  | .rolw => 0b11#2
  | .rorw => 0b11#2

/-- The DIR of a command (30_encoding.md R81). -/
def dirOf : Instr → BitVec 1
  | .shl => 0#1
  | .shr => 1#1
  | .rol => 0#1
  | .ror => 1#1
  | .rolw => 0#1
  | .rorw => 1#1

/-- The command word of a command: RSV = 0, then MODE, then DIR (30_encoding.md R80, R81). -/
def encode (i : Instr) : Word := 0#29 ++ modeOf i ++ dirOf i

/-- The word that `nbits` table bits of value `w` stand for: bits above `nbits` are 0, and a command word is 32 bits (30_encoding.md R85). -/
def tableWord (nbits w : Nat) : Word := BitVec.ofNat 32 (w % 2 ^ nbits)

/-- The command the decoder reads from a row of the opcode table; none where it refuses the word, or where the row is longer than the one
length a command has (30_encoding.md R85). -/
def decodeTableWord (nbits w : Nat) : Option Instr :=
  if nbits ≤ 32 then
    match decode (tableWord nbits w) with
    | .command i => some i
    | .illegal _ => none
  else none

end Sys2Proof
end

