-- ==== Sys2Proof/Machine/BitString.lean ====
section
/-!
DEFINITION. The shift datapath on bit strings. A bit string S is a list of bits, position 0 first (00_scope.md R10). The one-bit shifts
(41_shift.md R123, R127), the one-bit full-buffer rotation steps (42_rotate.md R141), the window boundary mask (00_scope.md R14) and the
one-bit windowed steps in the form of their datapath (43_rotate_window.md R163).
-/

namespace Sys2Proof.Machine

/-- A bit string, position 0 first (00_scope.md R10). -/
abbrev Bits := List Bool

/-- `V(S)`, the number a bit string stands for, position 0 most significant (00_scope.md R11). -/
def bitsValue (S : Bits) : Nat := S.foldl (fun v b => 2 * v + b.toNat) 0

/-- The one-bit left shift: the new string and the carry (41_shift.md R123). -/
def shl1 : Bits → Bits × Bool
  | [] => ([], false)
  | c :: rest => (rest ++ [false], c)

/-- The one-bit right shift: the new string and the carry (41_shift.md R127). -/
def shr1 (S : Bits) : Bits × Bool :=
  match S.getLast? with
  | none => ([], false)
  | some c => (false :: S.dropLast, c)

/-- One full-buffer rotation step to the left: the carry goes to the vacated position L - 1 (42_rotate.md R141). -/
def rol1 (S : Bits) : Bits :=
  let (T, c) := shl1 S
  T.set (S.length - 1) c

/-- One full-buffer rotation step to the right: the carry goes to the vacated position 0 (42_rotate.md R141). -/
def ror1 (S : Bits) : Bits :=
  let (T, c) := shr1 S
  T.set 0 c

/-- `WM(w)`: ones at positions 0 to w - 1 of a string of length L (00_scope.md R14). -/
def windowMask (w L : Nat) : Bits := (List.range L).map (fun k => decide (k < w))

/-- Bitwise AND of two strings of one length (00_scope.md R14). -/
def bitsAnd (S T : Bits) : Bits := S.zipWith (· && ·) T

/-- Bitwise OR of two strings of one length (00_scope.md R14). -/
def bitsOr (S T : Bits) : Bits := S.zipWith (· || ·) T

/-- Bitwise NOT (00_scope.md R14). -/
def bitsNot (S : Bits) : Bits := S.map (!·)

/-- The boundary mask: `(T & WM(w)) | (S & ~WM(w))`, the window from T and the padding from S (43_rotate_window.md R163). -/
def restorePadding (w : Nat) (T S : Bits) : Bits :=
  bitsOr (bitsAnd T (windowMask w S.length)) (bitsAnd S (bitsNot (windowMask w S.length)))

/-- One windowed step to the left: the shift carry wraps to the window's last position, then the mask (43_rotate_window.md R163). -/
def rolw1 (w : Nat) (S : Bits) : Bits :=
  let (T, c) := shl1 S
  restorePadding w (T.set (w - 1) c) S

/-- One windowed step to the right: the window's last bit, now one place into the padding (or in the carry when there is none), wraps to
position 0, then the mask (43_rotate_window.md R163, R166). -/
def rorw1 (w : Nat) (S : Bits) : Bits :=
  let (T, c) := shr1 S
  let e := if w = S.length then c else T.getD w false
  restorePadding w (T.set 0 e) S

/-- The byte whose bits 7 down to 0 are the positions 8 i to 8 i + 7 of a string (00_scope.md R10). -/
def byteOfBits (S : Bits) (i : Nat) : Byte :=
  BitVec.ofBool (S.getD (8 * i) false) ++ BitVec.ofBool (S.getD (8 * i + 1) false) ++
  BitVec.ofBool (S.getD (8 * i + 2) false) ++ BitVec.ofBool (S.getD (8 * i + 3) false) ++
  BitVec.ofBool (S.getD (8 * i + 4) false) ++ BitVec.ofBool (S.getD (8 * i + 5) false) ++
  BitVec.ofBool (S.getD (8 * i + 6) false) ++ BitVec.ofBool (S.getD (8 * i + 7) false)

end Sys2Proof.Machine
end

