-- ==== Sys2Proof/Config.lean ====
section
/-!
DEFINITION. What the spec leaves to the implementation or the platform (00_scope.md R6, 20_memory.md R52), the constants of the block, and
the free values of 93_implementation_defined.md I2, I3 and I4. A free value is an opaque constant: nothing can prove which value it is, so a
theorem holds whatever it is.
-/

namespace Sys2Proof.Config

/-- MAX_LEN - 1, open (00_scope.md R6, 1 <= MAX_LEN <= 4096). DESIGN CHOICE, safe: log 10. -/
opaque maxLenLessOne : Fin 4096

/-- MAX_LEN, the capacity of the buffer in bytes, 1 to 4096 (00_scope.md R6), as the 13-bit field CFG[12:0] holds it (10_state.md R28). -/
def maxLen : BitVec 13 := BitVec.ofNat 13 (maxLenLessOne.val + 1)

/-- BASE, the platform address of offset 0, open (20_memory.md R52, 92_eei_decisions.md D2). Safe: log 12. -/
opaque base : Nat

/-- What ID reads: "BRS" and command-set revision 1 (10_state.md R27). -/
def idValue : Word := 0x42525301#32

/-- The byte BUF[index] holds after the reset numbered `reset`, as long as nothing has written it: any value, each byte independently
(10_state.md R38, 70_reset_and_hazards.md R230 and R231, 93_implementation_defined.md I2 and I3). Safe: log 8. -/
opaque bufDraw (reset index : Nat) : Byte

/-- OPL after the reset numbered `reset`: unspecified and unobservable (10_state.md R38, 93_implementation_defined.md I4). DESIGN CHOICE: log 9. -/
opaque latchOplDraw (reset : Nat) : Instr

/-- KL after the reset numbered `reset` (10_state.md R38, 93_implementation_defined.md I4). DESIGN CHOICE: log 9. -/
opaque latchKlDraw (reset : Nat) : Nat

/-- WL after the reset numbered `reset` (10_state.md R38, 93_implementation_defined.md I4). DESIGN CHOICE: log 9. -/
opaque latchWlDraw (reset : Nat) : Nat

/-- LENL after the reset numbered `reset` (10_state.md R38, 93_implementation_defined.md I4). DESIGN CHOICE: log 9. -/
opaque latchLenlDraw (reset : Nat) : Nat

end Sys2Proof.Config
end

