-- ==== Sys2Proof/Machine/Memory.lean ====
section
/-!
DEFINITION. The storage of BUF: a list of (index, byte) pairs with indices strictly rising. An index that is not listed has NO value here
(`readCell?` answers none): nothing has written it since the last reset, and the machine reads it as that reset's free draw
(Machine/Ops.lean `bufByte`; log 8). No entry can equal "no value", so rising order is the whole canonical form.
-/

namespace Sys2Proof.Machine

/-- The bytes of BUF that something has written since the last reset, by index. -/
abbrev Memory := List Host.Cell

/-- The canonical form: indices strictly rising. -/
abbrev memoryWf (m : Memory) : Prop := (m.map Prod.fst).Pairwise (· < ·)

/-- The byte listed at an index, if one is. -/
def readCell? (a : Nat) : Memory → Option Byte
  | [] => none
  | (b, v) :: m => if a = b then some v else readCell? a m

/-- Write one byte, keeping the canonical form. -/
def writeCell (a : Nat) (v : Byte) : Memory → Memory
  | [] => [(a, v)]
  | (b, w) :: m =>
    if a < b then (a, v) :: (b, w) :: m
    else if a = b then (a, v) :: m
    else (b, w) :: writeCell a v m

/-- Write the bytes `f 0` to `f (n - 1)` at the indices 0 to n - 1. -/
def writeCells (f : Nat → Byte) : Nat → Memory → Memory
  | 0, m => m
  | n + 1, m => writeCell n (f n) (writeCells f n m)

end Sys2Proof.Machine
end

