-- ==== Sys2Proof/Machine/State.lean ====
section
/-!
DEFINITION. The state of the machine: everything 10_state.md R20 and R35 give the block, and the model's own fields that hold the
environment (log 1, 4, 5, 13). Plain data. Also the reasons a step can stop and the state after reset (10_state.md R38).
-/

namespace Sys2Proof.Machine

/-- The result code STATUS.ERR (10_state.md R29). The reserved codes 5, 6 and 7 are never written and are no value of this type (log 24). -/
inductive CmdErr where
  /-- 0 NONE: success. -/
  | none
  /-- 1 NULL_BUFFER: no buffer is present. -/
  | nullBuffer
  /-- 2 NEGATIVE_COUNT: the rotation count is negative. -/
  | negativeCount
  /-- 3 INVALID_WINDOW: the window is negative or longer than the buffer. -/
  | invalidWindow
  /-- 4 ILLEGAL_COMMAND: the word is outside the opcode table. -/
  | illegalCommand
  deriving DecidableEq, Repr

/-- The hidden command latch (10_state.md R35), readable by no host access. The three numbers are natural numbers, since nothing reads
them as words (log 17). -/
structure Latch where
  /-- OPL, the accepted command. -/
  opl : Instr
  /-- KL, the normalised rotation count. -/
  kl : Nat
  /-- WL, the window width in effect. -/
  wl : Nat
  /-- LENL, LEN at acceptance. -/
  lenl : Nat
  deriving DecidableEq, Repr

/-- The machine (INVENTORY.md, State). -/
structure State where
  /-- STATUS.BUSY (10_state.md R24). -/
  busy : Bool
  /-- STATUS.CARRY (10_state.md R26). -/
  carry : Bool
  /-- STATUS.BOUND (10_state.md R25). -/
  bound : Bool
  /-- STATUS.ERR (10_state.md R29). -/
  err : CmdErr
  /-- COUNT (10_state.md R30). -/
  count : Word
  /-- WINDOW (10_state.md R31). -/
  window : Word
  /-- LEN[12:0] (10_state.md R32). -/
  len : BitVec 13
  /-- CFG[12:0], the constant MAX_LEN (10_state.md R28, 00_scope.md R6; log 10). -/
  maxLen : BitVec 13
  /-- BUF (10_state.md R33): the bytes written since the last reset (log 8). -/
  buf : List Host.Cell
  /-- The hidden command latch (10_state.md R35). -/
  latch : Latch
  /-- The MODEL's own: how many resets the platform has taken, which selects the free draws (log 13). -/
  resets : Nat
  /-- The MODEL's own: the host operations still to come, oldest first (log 4). -/
  pending : List HostOp
  /-- The MODEL's own: which agents move next (log 1). -/
  schedule : List Agent
  /-- The MODEL's own: the responses given, newest first (log 5). -/
  responses : List Response
  deriving DecidableEq, Repr

/-- A reason the machine stops with a fault. There is none, safe: the spec says that no behaviour of this block is `fault` or `stuck`
(93_implementation_defined.md), and that completion never fails (60_exceptions.md R206); log 19. -/
inductive Fault where
  deriving DecidableEq, Repr

/-- A reason the model refuses a step. -/
inductive Refusal where
  /-- No meaning has been written for the command. Raised only by an arm of `exec` without a meaning, safe. No arm answers it: all six
  commands have their meanings. -/
  | notModelled (mnemonic : String)
  deriving DecidableEq, Repr

/-- The latch after the reset numbered `k`: unspecified and unobservable (10_state.md R38), a free draw (log 9). -/
def latchDraw (k : Nat) : Latch :=
  { opl := Config.latchOplDraw k, kl := Config.latchKlDraw k, wl := Config.latchWlDraw k, lenl := Config.latchLenlDraw k }

/-- The machine right after reset (10_state.md R38): the control state 0, no buffer bound, every byte of BUF a free draw, MAX_LEN the
open parameter. The model's own fields are empty (log 27). -/
def State.reset : State :=
  { busy := false
    carry := false
    bound := false
    err := .none
    count := 0#32
    window := 0#32
    len := 0#13
    maxLen := Config.maxLen
    buf := []
    latch := latchDraw 0
    resets := 0
    pending := []
    schedule := []
    responses := [] }

end Sys2Proof.Machine
end

