-- ==== Sys2Proof/Machine/Flags.lean ====
section
/-!
DEFINITION. STATUS: the numeric codes of ERR (10_state.md R29) and the STATUS word a read returns (10_state.md R24). Which step writes which
field is in Machine/Ops.lean (10_state.md R39).
-/

namespace Sys2Proof.Machine

/-- The numeric code of STATUS.ERR (10_state.md R29, 60_exceptions.md R200). -/
def errCode : CmdErr → BitVec 3
  | .none => 0#3
  | .nullBuffer => 1#3
  | .negativeCount => 2#3
  | .invalidWindow => 3#3
  | .illegalCommand => 4#3

/-- The STATUS word: ERR in bits 6:4, bit 3 reserved, BOUND, CARRY, BUSY, and 0 in bits 31:7 (10_state.md R24, R34). -/
def statusWord (s : State) : Word :=
  0#25 ++ errCode s.err ++ 0#1 ++ BitVec.ofBool s.bound ++ BitVec.ofBool s.carry ++ BitVec.ofBool s.busy

end Sys2Proof.Machine
end

