-- ==== Sys2Proof/Machine/Operands.lean ====
section
/-!
DEFINITION. Where a command's operands come from (30_encoding.md R84): the registers it reads, the bit length of the buffer, the rotation
period (40_command_cycle.md R103), the normalised count (R102) and the latch an acceptance writes (R101). All arithmetic is exact (R111).
-/

namespace Sys2Proof.Machine

/-- A register read as two's complement (00_scope.md R14). -/
def signed32 (x : Word) : Int := x.toInt

/-- Whether the command reads COUNT: the four rotations (10_state.md R30). -/
def readsCount : Instr → Bool
  | .shl => false
  | .shr => false
  | .rol => true
  | .ror => true
  | .rolw => true
  | .rorw => true

/-- Whether the command reads WINDOW: the two windowed rotations (10_state.md R31). -/
def readsWindow : Instr → Bool
  | .shl => false
  | .shr => false
  | .rol => false
  | .ror => false
  | .rolw => true
  | .rorw => true

/-- `L = 8 * LEN`, the bit length of the buffer (30_encoding.md R84). -/
def bitLength (s : State) : Nat := 8 * s.len.toNat

/-- WL at acceptance: WINDOW for a windowed rotation, else the whole buffer (40_command_cycle.md R101, R103). Used only for a validated
WINDOW, which is not negative. -/
def windowInEffect (i : Instr) (s : State) : Nat :=
  if readsWindow i then (signed32 s.window).toNat else bitLength s

/-- The normalised count: `n mod M`, and 0 for a shift and for an empty buffer or window (40_command_cycle.md R102). -/
def normalise (i : Instr) (n period : Nat) : Nat :=
  if readsCount i = false then 0 else if period = 0 then 0 else n % period

/-- The latch that the acceptance of `i` writes (40_command_cycle.md R101, R104). Used only for a validated COUNT, which is not negative. -/
def acceptedLatch (i : Instr) (s : State) : Latch :=
  { opl := i
    kl := normalise i (signed32 s.count).toNat (windowInEffect i s)
    wl := windowInEffect i s
    lenl := s.len.toNat }

/-- The checks on a command's operands, first failing check first (60_exceptions.md R202 after the word itself): the error it raises,
or none when the command is valid. -/
def operandError (i : Instr) (s : State) : Option CmdErr :=
  if s.bound = false then some .nullBuffer
  else if readsCount i ∧ signed32 s.count < 0 then some .negativeCount
  else if readsWindow i ∧ (signed32 s.window < 0 ∨ signed32 s.window > (bitLength s : Int)) then some .invalidWindow
  else none

end Sys2Proof.Machine
end

