-- ==== Sys2Proof/Machine/Ops.lean ====
section
/-!
DEFINITION. The named operations on the state: reading BUF, the updates of the registers and fields, raising a command error (the block's one
exception, 60_exceptions.md R201; there is no return from it, R208), acceptance and completion of a command (40_command_cycle.md R100 to
R108), and reset (70_reset_and_hazards.md R230).
-/

namespace Sys2Proof.Machine

/-- BUF[i]: the byte written there, or the free draw of the last reset while nothing has written it (10_state.md R33, R38; log 8). -/
def bufByte (s : State) (i : Nat) : Byte := (readCell? i s.buf).getD (Config.bufDraw s.resets i)

/-- `S[k] = BUF[k div 8][7 - (k mod 8)]` (00_scope.md R10). -/
def bitAt (s : State) (k : Nat) : Bool := (bufByte s (k / 8)).getMsbD (k % 8)

/-- The bit string of the bytes BUF[0] to BUF[n - 1] (00_scope.md R10). -/
def activeBits (n : Nat) (s : State) : Bits := (List.range (8 * n)).map (bitAt s)

/-! ## Updates, one per register or field -/

/-- COUNT <- v (10_state.md R30). -/
def setCount (v : Word) (s : State) : State := { s with count := v }

/-- WINDOW <- v (10_state.md R31). -/
def setWindow (v : Word) (s : State) : State := { s with window := v }

/-- LEN <- v and BOUND <- 1 (10_state.md R32). -/
def bindLen (v : BitVec 13) (s : State) : State := { s with len := v, bound := true }

/-- BOUND <- 0, LEN kept (10_state.md R32). -/
def unbind (s : State) : State := { s with bound := false }

/-- BUF[i] <- b (10_state.md R33). -/
def setBufByte (i : Nat) (b : Byte) (s : State) : State := { s with buf := writeCell i b s.buf }

/-- BUF[0..n-1] <- bytes of S; every other byte kept (40_command_cycle.md R106). -/
def storeBits (n : Nat) (S : Bits) (s : State) : State := { s with buf := writeCells (byteOfBits S) n s.buf }

/-- STATUS.CARRY <- c (10_state.md R26). -/
def setCarry (c : Bool) (s : State) : State := { s with carry := c }

/-- STATUS.BUSY <- 0 (40_command_cycle.md R106). -/
def clearBusy (s : State) : State := { s with busy := false }

/-- The transaction's response reaches the host (20_memory.md R51). -/
def respond (r : Response) (s : State) : State := { s with responses := r :: s.responses }

/-- The host's oldest operation is done. -/
def popPending (s : State) : State := { s with pending := s.pending.tail }

/-- The scheduled agent has moved. -/
def popSchedule (s : State) : State := { s with schedule := s.schedule.tail }

/-! ## The command cycle -/

/-- `raise CmdError(code)`: STATUS.ERR <- code and nothing else (60_exceptions.md R201). The block has no trap, saves nothing and
returns from nothing (R207, R208). -/
def raiseCmdError (e : CmdErr) (s : State) : State := { s with err := e }

/-- A valid command is latched: the latch, ERR <- 0 and BUSY <- 1, all at once (40_command_cycle.md R104). -/
def latchCommand (l : Latch) (s : State) : State := { s with latch := l, err := .none, busy := true }

/-- Acceptance of the command `i` with BUSY = 0 (40_command_cycle.md R101): rejected with the first failing check's code, or latched. -/
def acceptCommand (i : Instr) (s : State) : State :=
  match operandError i s with
  | some e => raiseCmdError e s
  | none => latchCommand (acceptedLatch i s) s

/-- Completion of a shift: the new string, the carry, BUSY <- 0 (40_command_cycle.md R106, the SHL and SHR arms). -/
def completeShift (shift : Bits → Bits × Bool) (s : State) : State :=
  let S := activeBits s.latch.lenl s
  clearBusy (setCarry (shift S).2 (storeBits s.latch.lenl (shift S).1 s))

/-- Completion of a rotation: KL applications of the one-bit step, BUSY <- 0 (40_command_cycle.md R106, R107). CARRY is not written. -/
def completeRotation (oneStep : Bits → Bits) (s : State) : State :=
  clearBusy (storeBits s.latch.lenl (Nat.iterate oneStep s.latch.kl (activeBits s.latch.lenl s)) s)

/-- The two steps of a command (40_command_cycle.md R100). With BUSY = 0 the command is accepted. With BUSY = 1 and the command itself in
flight it is completed. With another command in flight it has no effect (70_reset_and_hazards.md R240). A CMD write while BUSY = 1
never comes here: the bus refuses it first (log 6, 7). -/
def commandCycle (i : Instr) (complete : State → State) (s : State) : Host.Outcome State Fault Refusal :=
  if s.busy = false then .next (acceptCommand i s)
  else if s.latch.opl = i then .next (complete s)
  else .next s

/-- Reset (70_reset_and_hazards.md R230, R231): every piece of the block's state to its value after reset, at any time. MAX_LEN is a
constant; BUF and the latch are the free draws of this reset; the host's operations, the schedule and the responses are not the block's. -/
def takeReset (s : State) : State :=
  { State.reset with
    maxLen := s.maxLen
    latch := latchDraw (s.resets + 1)
    resets := s.resets + 1
    pending := s.pending
    schedule := s.schedule
    responses := s.responses }

/-- Apply an update to the next state of an outcome; a fault or a refusal stays. -/
def mapNext (f : State → State) : Host.Outcome State Fault Refusal → Host.Outcome State Fault Refusal
  | .next s => .next (f s)
  | .fault r => .fault r
  | .refused r => .refused r

end Sys2Proof.Machine
end

