-- ==== Sys2Proof/Machine/Rotate.lean ====
section
/-!
DEFINITION. The full-buffer rotation family (42_rotate.md): ROL and ROR.
-/

namespace Sys2Proof.Machine

/-- ROL (42_rotate.md R142): NULL_BUFFER, then NEGATIVE_COUNT; at completion KL applications of `rol1(S, L)`; CARRY unchanged. -/
def execRol (s : State) : Host.Outcome State Fault Refusal := commandCycle .rol (completeRotation rol1) s

/-- ROR (42_rotate.md R143): NULL_BUFFER, then NEGATIVE_COUNT; at completion KL applications of `ror1(S, L)`; CARRY unchanged. -/
def execRor (s : State) : Host.Outcome State Fault Refusal := commandCycle .ror (completeRotation ror1) s

end Sys2Proof.Machine
end

