-- ==== Sys2Proof/Machine/RotateWindow.lean ====
section
/-!
DEFINITION. The windowed rotation family (43_rotate_window.md): ROLW and RORW. The window is positions 0 to w - 1, the padding is kept
(90_conflicts.md C3 to C6 and C9; log 21).
-/

namespace Sys2Proof.Machine

/-- ROLW (43_rotate_window.md R164): NULL_BUFFER, then NEGATIVE_COUNT, then INVALID_WINDOW; at completion KL applications of
`rol1(S, w)`; CARRY unchanged. -/
def execRolw (s : State) : Host.Outcome State Fault Refusal :=
  commandCycle .rolw (completeRotation (rolw1 s.latch.wl)) s

/-- RORW (43_rotate_window.md R165): NULL_BUFFER, then NEGATIVE_COUNT, then INVALID_WINDOW; at completion KL applications of
`ror1(S, w)`; CARRY unchanged. -/
def execRorw (s : State) : Host.Outcome State Fault Refusal :=
  commandCycle .rorw (completeRotation (rorw1 s.latch.wl)) s

end Sys2Proof.Machine
end

