-- ==== Sys2Proof/Machine/Shift.lean ====
section
/-!
DEFINITION. The shift family (41_shift.md): SHL and SHR.
-/

namespace Sys2Proof.Machine

/-- SHL (41_shift.md R124): NULL_BUFFER when BOUND = 0; at completion `(S', c) <- shl1(S)` and CARRY <- c. -/
def execShl (s : State) : Host.Outcome State Fault Refusal := commandCycle .shl (completeShift shl1) s

/-- SHR (41_shift.md R128): NULL_BUFFER when BOUND = 0; at completion `(S', c) <- shr1(S)` and CARRY <- c. -/
def execShr (s : State) : Host.Outcome State Fault Refusal := commandCycle .shr (completeShift shr1) s

end Sys2Proof.Machine
end

