-- ==== Sys2Proof/Machine/Dispatch.lean ====
section
/-!
DEFINITION. One arm per command: its next step, acceptance with BUSY = 0 and completion with BUSY = 1 (40_command_cycle.md R100; log 6).
-/

namespace Sys2Proof.Machine

def exec (i : Instr) (s : State) : Host.Outcome State Fault Refusal :=
  match i with
  | .shl => Sys2Proof.Machine.execShl s
  | .shr => Sys2Proof.Machine.execShr s
  | .rol => Sys2Proof.Machine.execRol s
  | .ror => Sys2Proof.Machine.execRor s
  | .rolw => Sys2Proof.Machine.execRolw s
  | .rorw => Sys2Proof.Machine.execRorw s

end Sys2Proof.Machine
end

