-- ==== Sys2Proof/Machine/Bus.lean ====
section
/-!
DEFINITION. The host bus (20_memory.md): what an offset and a size reach (R53 to R55, R58), the reads and writes of the registers
(10_state.md R23 to R32) and of BUF (20_memory.md R55, R56), the refusals while BUSY = 1 (70_reset_and_hazards.md R240), and the three
agents' moves (00_scope.md R8, 70_reset_and_hazards.md R230).
-/

namespace Sys2Proof.Machine

/-! ## What a transaction reaches -/

/-- The registers of the address map (20_memory.md R53). -/
inductive Register where
  | cmd
  | status
  | count
  | window
  | len
  | id
  | cfg
  deriving DecidableEq, Repr

/-- The register at an offset (20_memory.md R53). -/
def registerAt (off : Nat) : Option Register :=
  if off = 0x0000 then some .cmd
  else if off = 0x0004 then some .status
  else if off = 0x0008 then some .count
  else if off = 0x000C then some .window
  else if off = 0x0010 then some .len
  else if off = 0x0014 then some .id
  else if off = 0x0018 then some .cfg
  else none

/-- The offset of BUF[0] (20_memory.md R53). -/
def bufBase : Nat := 0x1000

/-- What a transaction reaches. -/
inductive Target where
  /-- A register, by a 4-byte transaction at its own offset (20_memory.md R54). -/
  | reg (r : Register)
  /-- One byte of BUF (20_memory.md R55). -/
  | bufByte (i : Nat)
  /-- Four bytes of BUF from an index that is a multiple of 4 (20_memory.md R55). -/
  | bufWord (i : Nat)
  /-- Nothing: the transaction gets an ERROR response, reads 0 and changes nothing (20_memory.md R51, R58; 60_exceptions.md R210). -/
  | nothing
  deriving DecidableEq, Repr

/-- Whether an offset lies in the BUF region (20_memory.md R53). -/
def inBuf (s : State) (off : Nat) : Bool := bufBase ≤ off && off - bufBase < s.maxLen.toNat

/-- What a transaction of `n` bytes at `off` reaches (20_memory.md R50, R53 to R55, R58). -/
def target (s : State) (off : Offset) (n : Nat) : Target :=
  if n = 1 then
    if inBuf s off.toNat then .bufByte (off.toNat - bufBase) else .nothing
  else if n = 4 then
    if inBuf s off.toNat then
      if (off.toNat - bufBase) % 4 = 0 then .bufWord (off.toNat - bufBase) else .nothing
    else
      match registerAt off.toNat with
      | some r => .reg r
      | none => .nothing
  else .nothing

/-! ## Reads -/

/-- What a register reads as, at any time (10_state.md R23, R24, R27, R28, R30 to R32). -/
def readRegister (r : Register) (s : State) : Word :=
  match r with
  | .cmd => 0#32
  | .status => statusWord s
  | .count => s.count
  | .window => s.window
  | .len => s.len.setWidth 32
  | .id => Config.idValue
  | .cfg => s.maxLen.setWidth 32

/-- One lane of a 4-byte BUF read: a byte at or past MAX_LEN does not exist and reads 0 (20_memory.md R55). -/
def readLane (s : State) (i : Nat) : Byte := if i < s.maxLen.toNat then bufByte s i else 0#8

/-- A 4-byte BUF read: BUF[i] in the most significant lane (20_memory.md R56). -/
def readBufWord (s : State) (i : Nat) : Word :=
  readLane s i ++ readLane s (i + 1) ++ readLane s (i + 2) ++ readLane s (i + 3)

/-- The data 0 of a refused read, at its size (20_memory.md R51). -/
def zeroData (n : Nat) : Data := if n = 1 then .byte 0#8 else if n = 4 then .word 0#32 else .other 0

/-- The response and data of `MemRead(off, n)` (20_memory.md R50 to R58, 70_reset_and_hazards.md R240). -/
def busRead (off : Offset) (n : Nat) (s : State) : Response :=
  match target s off n with
  | .reg r => .read .okay (.word (readRegister r s))
  | .bufByte i => if s.busy then .read .error (zeroData n) else .read .okay (.byte (bufByte s i))
  | .bufWord i => if s.busy then .read .error (zeroData n) else .read .okay (.word (readBufWord s i))
  | .nothing => .read .error (zeroData n)

/-! ## Writes -/

/-- The host write of LEN (10_state.md R32): the whole value is compared with MAX_LEN. -/
def writeLen (v : Word) (s : State) : State :=
  if v.toNat ≤ s.maxLen.toNat then bindLen (v.setWidth 13) s else unbind s

/-- One lane of a 4-byte BUF write: a write to a byte at or past MAX_LEN is ignored (20_memory.md R55). -/
def writeLane (i : Nat) (b : Byte) (s : State) : State := if i < s.maxLen.toNat then setBufByte i b s else s

/-- A 4-byte BUF write, its bytes together: data[31:24] to BUF[i] (20_memory.md R56, R60). -/
def writeBufWord (i : Nat) (v : Word) (s : State) : State :=
  writeLane (i + 3) (v.extractLsb' 0 8)
    (writeLane (i + 2) (v.extractLsb' 8 8) (writeLane (i + 1) (v.extractLsb' 16 8) (writeLane i (v.extractLsb' 24 8) s)))

/-- A word presented to CMD with BUSY = 0 (40_command_cycle.md R101): an illegal word raises ILLEGAL_COMMAND (60_exceptions.md R202), a
command is executed. -/
def presentWord (v : Word) (s : State) : Host.Outcome State Fault Refusal :=
  match decode v with
  | .illegal _ => .next (raiseCmdError .illegalCommand s)
  | .command i => exec i s

/-- Whether a host write to the register is refused while BUSY = 1 (70_reset_and_hazards.md R240). -/
def refusedWhileBusy : Register → Bool
  | .cmd => true
  | .status => false
  | .count => true
  | .window => true
  | .len => true
  | .id => false
  | .cfg => false

/-- The effect of a host write of a register that is not refused. STATUS, ID and CFG ignore writes (20_memory.md R59). -/
def writeRegister (r : Register) (v : Word) (s : State) : Host.Outcome State Fault Refusal :=
  match r with
  | .cmd => presentWord v s
  | .status => .next s
  | .count => .next (setCount v s)
  | .window => .next (setWindow v s)
  | .len => .next (writeLen v s)
  | .id => .next s
  | .cfg => .next s

/-- A transaction refused with an ERROR response: no effect on the block (20_memory.md R51). -/
def refuseWrite (s : State) : Host.Outcome State Fault Refusal := .next (respond (.write .error) s)

/-- `MemWrite(off, n, v)` and its response (20_memory.md R50 to R59, 70_reset_and_hazards.md R240). A 1-byte write carries the low byte
of v (log 14). -/
def busWrite (off : Offset) (n : Nat) (v : Word) (s : State) : Host.Outcome State Fault Refusal :=
  match target s off n with
  | .reg r =>
    if s.busy && refusedWhileBusy r then refuseWrite s
    else mapNext (respond (.write .okay)) (writeRegister r v s)
  | .bufByte i => if s.busy then refuseWrite s else .next (respond (.write .okay) (setBufByte i (v.setWidth 8) s))
  | .bufWord i => if s.busy then refuseWrite s else .next (respond (.write .okay) (writeBufWord i v s))
  | .nothing => refuseWrite s

/-! ## The agents -/

/-- The offset of STATUS (20_memory.md R53). -/
def statusOffset : Offset := 0x0004#13

/-- The offset of CMD (20_memory.md R53). -/
def cmdOffset : Offset := 0x0000#13

/-- The offset the block sees for a platform address: `address - BASE`, if the address lies in the block's 8 KiB (20_memory.md R52).
Aliases of the block elsewhere are the platform's (log 12). -/
def platformOffset (address : Nat) : Option Offset :=
  if Config.base ≤ address ∧ address - Config.base < 0x2000 then some (BitVec.ofNat 13 (address - Config.base)) else none

/-- The host's turn: it performs its next operation. `WAIT_IDLE` reads STATUS and is done only when BUSY read 0 (30_encoding.md R87).
With nothing to do the host does nothing. -/
def hostMove (s : State) : Host.Outcome State Fault Refusal :=
  match s.pending with
  | [] => .next s
  | .read off n :: _ => .next (popPending (respond (busRead off n s) s))
  | .write off n v :: _ => mapNext popPending (busWrite off n v s)
  | .waitIdle :: _ =>
    if s.busy then .next (respond (busRead statusOffset 4 s) s)
    else .next (popPending (respond (busRead statusOffset 4 s) s))

/-- The engine's turn: it completes the command in flight, if there is one (40_command_cycle.md R106). -/
def engineMove (s : State) : Host.Outcome State Fault Refusal :=
  if s.busy then exec s.latch.opl s else .next s

/-- Who moves next: the schedule says so; when it has run out, the engine if a command is in flight (weak fairness, 40_command_cycle.md R108),
else the host (log 1, 2). -/
def nextAgent (s : State) : Agent :=
  match s.schedule with
  | a :: _ => a
  | [] => if s.busy then .engine else .host

/-- One agent's turn (20_memory.md R61: one at a time, each to its end). -/
def move (a : Agent) (s : State) : Host.Outcome State Fault Refusal :=
  match a with
  | .host => hostMove s
  | .engine => engineMove s
  | .platform => .next (takeReset s)

end Sys2Proof.Machine
end

