-- ==== Sys2Proof/Machine/Step.lean ====
section
/-!
DEFINITION. One step of the machine: one turn of the agent that moves next (00_scope.md R8, 20_memory.md R61), and the placing of a command
word where the next step takes it (the host's test interface).
-/

namespace Sys2Proof.Machine

/-- One step: the next agent's turn, and the schedule moves on. -/
def step (s : State) : Host.Outcome State Fault Refusal := mapNext popSchedule (move (nextAgent s) s)

/-- The state whose very next step presents a command word to CMD: the host moves next and its next operation is the CMD write
(30_encoding.md R80, R85). BUSY is 0, which a CMD write needs to be taken (10_state.md R23; log 4, 22). -/
def State.withFetchWord (s : State) (nbits w : Nat) : State :=
  { s with
    busy := false
    pending := .write cmdOffset 4 (tableWord nbits w) :: s.pending
    schedule := .host :: s.schedule }

end Sys2Proof.Machine
end

