-- ==== Sys2Proof/Machine/HostScript.lean ====
section
/-!
DEFINITION. The host-script notation (30_encoding.md R86) and the pseudo-instructions (R87), as expansions into host operations. They are a
host-side convenience: the block sees only the transactions. A script number that does not fit its transaction has no meaning in the spec; here
it is taken modulo 2^8, 2^32 or 2^13 (DESIGN CHOICE, log 28).
-/

namespace Sys2Proof.Machine

/-- The offset of a register, by its name in a script (30_encoding.md R86, 20_memory.md R53). -/
def registerOffset : Register → Offset
  | .cmd => 0x0000#13
  | .status => 0x0004#13
  | .count => 0x0008#13
  | .window => 0x000C#13
  | .len => 0x0010#13
  | .id => 0x0014#13
  | .cfg => 0x0018#13

/-- The offset `BUF+<i>` (30_encoding.md R86). DESIGN CHOICE: past offset 0x1FFF, where the spec gives `BUF+<i>` no meaning, it is taken modulo
2^13 (log 28). -/
def bufOffset (i : Nat) : Offset := BitVec.ofNat 13 (bufBase + i)

/-- One line of a host script (30_encoding.md R86). A negative number stands for its two's-complement value. -/
inductive ScriptLine where
  | wr32 (off : Offset) (v : Int)
  | wr8 (off : Offset) (v : Int)
  | rd32 (off : Offset)
  | rd8 (off : Offset)
  | comment (text : String)
  deriving DecidableEq, Repr

/-- The transactions of a script line (30_encoding.md R86). DESIGN CHOICE: a number that does not fit, in `WR32` outside -2^31 to 2^32 - 1
and in `WR8` outside 0 to 255 (a negative one too), has no meaning in the spec and is taken modulo 2^32 or 2^8 (log 28). -/
def scriptLineOps : ScriptLine → List HostOp
  | .wr32 off v => [.write off 4 (BitVec.ofInt 32 v)]
  | .wr8 off v => [.write off 1 ((BitVec.ofInt 8 v).setWidth 32)]
  | .rd32 off => [.read off 4]
  | .rd8 off => [.read off 1]
  | .comment _ => []

/-- The pseudo-instructions (30_encoding.md R87). -/
inductive Pseudo where
  | shl
  | shr
  | rol (n : Int)
  | ror (n : Int)
  | rolw (n w : Int)
  | rorw (n w : Int)
  | waitIdle
  | setlen (n : Int)
  | load (bytes : List Byte)
  deriving DecidableEq, Repr

/-- `WR32 <register>, <v>` (30_encoding.md R86). DESIGN CHOICE: a number that does not fit 32 bits is taken modulo 2^32 (log 28). -/
def writeRegisterOp (r : Register) (v : Int) : HostOp := .write (registerOffset r) 4 (BitVec.ofInt 32 v)

/-- `WR8 BUF+i, b` for the bytes of a LOAD, from index i on (30_encoding.md R87). -/
def loadOps : Nat → List Byte → List HostOp
  | _, [] => []
  | i, b :: bs => .write (bufOffset i) 1 (b.setWidth 32) :: loadOps (i + 1) bs

/-- The expansion of a pseudo-instruction (30_encoding.md R87). A count, window or length that does not fit 32 bits is taken modulo 2^32, and a
byte of a LOAD past offset 0x1FFF at its offset modulo 2^13 (DESIGN CHOICE, log 28). -/
def pseudoOps : Pseudo → List HostOp
  | .shl => [writeRegisterOp .cmd 0x2, .waitIdle]
  | .shr => [writeRegisterOp .cmd 0x3, .waitIdle]
  | .rol n => [writeRegisterOp .count n, writeRegisterOp .cmd 0x4, .waitIdle]
  | .ror n => [writeRegisterOp .count n, writeRegisterOp .cmd 0x5, .waitIdle]
  | .rolw n w => [writeRegisterOp .count n, writeRegisterOp .window w, writeRegisterOp .cmd 0x6, .waitIdle]
  | .rorw n w => [writeRegisterOp .count n, writeRegisterOp .window w, writeRegisterOp .cmd 0x7, .waitIdle]
  | .waitIdle => [.waitIdle]
  | .setlen n => [writeRegisterOp .len n]
  | .load bytes => loadOps 0 bytes

end Sys2Proof.Machine
end

