-- ==== Sys2Proof/Safety.lean ====
section
/-!
DEFINITION. The terms in which claims about the machine are made: the invariant of every reachable state, what the host does in a step, a
command run to its end, the end of a run (70_reset_and_hazards.md R244) and the host's duty (R241).
-/

namespace Sys2Proof.Machine

/-- What holds in every reachable state: MAX_LEN in its range (00_scope.md R6), LEN at most MAX_LEN (10_state.md R32), BUF in its canonical
form and within MAX_LEN bytes (R33), and, while a command is in flight, ERR = 0 and a latch that is exactly what an acceptance with the
registers as they stand would write (R35: sampled at acceptance or at completion, the operands are the same). -/
structure BlockInv (s : State) : Prop where
  capacity : 1 ≤ s.maxLen.toNat ∧ s.maxLen.toNat ≤ 4096
  lenInCapacity : s.len.toNat ≤ s.maxLen.toNat
  bufCanonical : memoryWf s.buf
  bufInCapacity : ∀ c ∈ s.buf, c.1 < s.maxLen.toNat
  inFlight : s.busy = true →
    s.err = .none ∧ operandError s.latch.opl s = none ∧ s.latch = acceptedLatch s.latch.opl s

/-- The next step is the host performing `op`. -/
def hostDoes (s : State) (op : HostOp) : Prop := nextAgent s = .host ∧ s.pending.head? = some op

/-- The next step presents the word `v` to CMD while BUSY = 0 (40_command_cycle.md R101). -/
def presents (s : State) (v : Word) : Prop := hostDoes s (.write cmdOffset 4 v) ∧ s.busy = false

/-- A host operation is done with the response `r`, and the block is in the state `s`. -/
def hostDone (r : Response) (s : State) : State := popSchedule (popPending (respond r s))

/-- Whether a response is a bus error response (20_memory.md R51). -/
def isBusError : Response → Bool
  | .read .okay _ => false
  | .read .error _ => true
  | .write .okay => false
  | .write .error => true

/-- `V(S)` of the bytes BUF[0] to BUF[n - 1] (00_scope.md R11). -/
def activeValue (n : Nat) (s : State) : Nat := bitsValue (activeBits n s)

/-- A command presented to an idle block and run to its end: acceptance, and completion if it was accepted, with no step between. -/
def runCommand (i : Instr) (s : State) : Host.Outcome State Fault Refusal :=
  match exec i s with
  | .next a => if a.busy then exec i a else .next a
  | .fault r => .fault r
  | .refused r => .refused r

/-- The same command run `k` times in a row. -/
def runCommandTimes (i : Instr) : Nat → State → Host.Outcome State Fault Refusal
  | 0, s => .next s
  | k + 1, s =>
    match runCommand i s with
    | .next t => runCommandTimes i k t
    | .fault r => .fault r
    | .refused r => .refused r

/-- Two states hold the same bytes in BUF, active or not. -/
def sameBuf (s t : State) : Prop := ∀ j, bufByte s j = bufByte t j

/-- The end of a host program (70_reset_and_hazards.md R244): nothing pending and BUSY = 0. -/
def ended (s : State) : Bool := s.pending.isEmpty && !s.busy

/-- The host's duty while a command is in flight (70_reset_and_hazards.md R241): its next operation is neither a write to CMD, COUNT,
WINDOW or LEN nor a BUF transaction. -/
def keepsDuty (s : State) : Bool :=
  !s.busy ||
  match s.pending.head? with
  | none => true
  | some .waitIdle => true
  | some (.read off _) => !inBuf s off.toNat
  | some (.write off _ _) =>
    !inBuf s off.toNat &&
    (match registerAt off.toNat with
      | none => true
      | some r => !refusedWhileBusy r)

end Sys2Proof.Machine
end

