-- ==== Sys2Proof/Certificates/Slice0/Obligations.lean ====
section
/-!
DEFINITION. The statements for the provers. Each says which rule of spec/ it formalises; a statement that rests on a choice of the model names
the log entry.
-/

open Sys2Proof Sys2Proof.Machine

/-! ## Reset and the invariant -/

/-- What reset leaves (10_state.md R38; 70_reset_and_hazards.md R232). BUF as a free draw of reset 0 is the model's form of "unspecified"
(log 8), MAX_LEN the open parameter (log 10). -/
def Obligations.ResetState : Prop :=
  State.reset.busy = false ∧ State.reset.carry = false ∧ State.reset.bound = false ∧ State.reset.err = .none ∧
  State.reset.count = 0#32 ∧ State.reset.window = 0#32 ∧ State.reset.len = 0#13 ∧
  statusWord State.reset = 0#32 ∧ readRegister .cmd State.reset = 0#32 ∧
  readRegister .id State.reset = 0x42525301#32 ∧
  (∃ m, 1 ≤ m ∧ m ≤ 4096 ∧ (readRegister .cfg State.reset).toNat = m ∧ State.reset.maxLen.toNat = m) ∧
  (∀ i, bufByte State.reset i = Config.bufDraw 0 i)

/-- The state after reset meets the invariant (00_scope.md R6, 10_state.md R32, R33, R35). -/
def Obligations.ResetMeetsInvariant : Prop := BlockInv State.reset

/-- Every step keeps the invariant: MAX_LEN and LEN in range, BUF canonical and within its capacity, and the latch of a command in flight
what its registers say, with ERR = 0. -/
def Obligations.StepKeepsInvariant : Prop := ∀ s t : State, BlockInv s → step s = .next t → BlockInv t

/-- The reset step, from any state, also with a command in flight (70_reset_and_hazards.md R230, R231). BUF becomes the free draws of a new
reset (log 8), and what is not the block's stays (log 25). -/
def Obligations.ResetStepClearsBlock : Prop :=
  ∀ s : State, nextAgent s = .platform →
    ∃ t, step s = .next t ∧ t.busy = false ∧ t.carry = false ∧ t.bound = false ∧ t.err = .none ∧ t.count = 0#32 ∧
      t.window = 0#32 ∧ t.len = 0#13 ∧ t.maxLen = s.maxLen ∧ (∀ i, bufByte t i = Config.bufDraw (s.resets + 1) i) ∧
      t.pending = s.pending ∧ t.responses = s.responses ∧ t.schedule = s.schedule.tail

/-! ## Every step goes on -/

/-- No state stops the machine: no behaviour is `fault` or `stuck` (93_implementation_defined.md; 60_exceptions.md R206, R207). -/
def Obligations.EveryStepAnswersNext : Prop := ∀ s : State, ∃ t, step s = .next t

/-- Completion never fails, whatever the latch holds, and writes no error (60_exceptions.md R206). That it leaves the latch as it is, which
the frame says too, is the model's reading (log 16). -/
def Obligations.CompletionNeverFails : Prop :=
  ∀ s : State, s.busy = true → nextAgent s = .engine →
    ∃ t, step s = .next t ∧ t.busy = false ∧ t.err = s.err ∧
      t = { s with busy := false, carry := t.carry, buf := t.buf, schedule := s.schedule.tail }

/-- While a command is in flight it is eventually completed or abandoned by a reset (40_command_cycle.md R108, 20_memory.md R62): within the
length of the schedule, plus one. That the schedule is finite and the engine moves after it is the model's weak fairness (log 1, 2). -/
def Obligations.BusyEventuallyClears : Prop :=
  ∀ s : State, s.busy = true →
    ∃ k t, k ≤ s.schedule.length + 1 ∧ Host.Core.run Sys2Proof.core k s = .next t ∧ t.busy = false

/-- A WAIT_IDLE loop ends, and its last STATUS read has BUSY = 0 (30_encoding.md R87). It rests on the model's weak fairness (log 1, 2) and
form of the loop (log 18). -/
def Obligations.WaitIdleEnds : Prop :=
  ∀ (s : State) (rest : List HostOp), s.pending = .waitIdle :: rest →
    ∃ k t w, k ≤ s.schedule.length + 2 ∧ Host.Core.run Sys2Proof.core k s = .next t ∧ t.pending = rest ∧ t.busy = false ∧
      t.responses.head? = some (.read .okay (.word w)) ∧ w.getLsbD 0 = false

/-- A finished program stays finished (70_reset_and_hazards.md R244): with nothing pending, nothing scheduled and BUSY = 0, the step changes
nothing (log 2). -/
def Obligations.EndedProgramStays : Prop :=
  ∀ s : State, ended s = true → s.schedule = [] → step s = .next s

/-! ## Decoding -/

/-- Decoding by fields (30_encoding.md R82). -/
def Obligations.DecodeFollowsFields : Prop :=
  ∀ v : Word,
    (v.extractLsb' 3 29 ≠ 0#29 → ∃ why, decode v = .illegal why) ∧
    (v.extractLsb' 3 29 = 0#29 →
      (v.extractLsb' 1 2 = 0b00#2 → ∃ why, decode v = .illegal why) ∧
      (v.extractLsb' 1 2 = 0b01#2 → decode v = .command (if v.getLsbD 0 = false then .shl else .shr)) ∧
      (v.extractLsb' 1 2 = 0b10#2 → decode v = .command (if v.getLsbD 0 = false then .rol else .ror)) ∧
      (v.extractLsb' 1 2 = 0b11#2 → decode v = .command (if v.getLsbD 0 = false then .rolw else .rorw)))

/-- The opcode map: a word selects a command exactly when it is one of six values (30_encoding.md R81), with the MODE and DIR of the map. -/
def Obligations.OpcodeMapSelectsExactly : Prop :=
  (∀ v : Word,
    (decode v = .command .shl ↔ v = 0x00000002#32) ∧ (decode v = .command .shr ↔ v = 0x00000003#32) ∧
    (decode v = .command .rol ↔ v = 0x00000004#32) ∧ (decode v = .command .ror ↔ v = 0x00000005#32) ∧
    (decode v = .command .rolw ↔ v = 0x00000006#32) ∧ (decode v = .command .rorw ↔ v = 0x00000007#32)) ∧
  modeField 0x00000002#32 = 0b01#2 ∧ dirField 0x00000002#32 = 0#1 ∧ modeField 0x00000003#32 = 0b01#2 ∧ dirField 0x00000003#32 = 1#1 ∧
  modeField 0x00000004#32 = 0b10#2 ∧ dirField 0x00000004#32 = 0#1 ∧ modeField 0x00000005#32 = 0b10#2 ∧ dirField 0x00000005#32 = 1#1 ∧
  modeField 0x00000006#32 = 0b11#2 ∧ dirField 0x00000006#32 = 0#1 ∧ modeField 0x00000007#32 = 0b11#2 ∧ dirField 0x00000007#32 = 1#1

/-- Decode and encode agree in both directions: every command has exactly one word (30_encoding.md R81, R82). -/
def Obligations.DecodeEncodeAgree : Prop := ∀ (v : Word) (i : Instr), decode v = .command i ↔ v = encode i

/-- A few words of the opcode map, written out (30_encoding.md R81). -/
def Obligations.SampleWordsDecode : Prop :=
  decode 0b00000000000000000000000000000010#32 = .command .shl ∧
  decode 0b00000000000000000000000000000101#32 = .command .ror ∧
  decode 0b00000000000000000000000000000110#32 = .command .rolw

/-- The illegal words, exactly those that are no command's word; presented to an idle block each gets ERR <- 4 and nothing else
(30_encoding.md R83). -/
def Obligations.IllegalWordRejected : Prop :=
  errCode .illegalCommand = 4#3 ∧
  (∀ v : Word, (∀ i, v ≠ encode i) ↔ (v = 0#32 ∨ v = 1#32 ∨ v.extractLsb' 3 29 ≠ 0#29)) ∧
  (∀ (s : State) (v : Word), presents s v → (v = 0#32 ∨ v = 1#32 ∨ v.extractLsb' 3 29 ≠ 0#29) →
    step s = .next (hostDone (.write .okay) { s with err := .illegalCommand }))

/-- The six command pseudo-instructions write their own command word and wait (30_encoding.md R87). For a count or window that does not fit
32 bits, which the spec gives no meaning, the value written is the model's choice (log 28). -/
def Obligations.PseudoInstructionsPresentTheirCommand : Prop :=
  ∀ n w : Int,
    pseudoOps .shl = [.write cmdOffset 4 (encode .shl), .waitIdle] ∧
    pseudoOps .shr = [.write cmdOffset 4 (encode .shr), .waitIdle] ∧
    pseudoOps (.rol n) = [.write 0x008#13 4 (BitVec.ofInt 32 n), .write cmdOffset 4 (encode .rol), .waitIdle] ∧
    pseudoOps (.ror n) = [.write 0x008#13 4 (BitVec.ofInt 32 n), .write cmdOffset 4 (encode .ror), .waitIdle] ∧
    pseudoOps (.rolw n w) =
      [.write 0x008#13 4 (BitVec.ofInt 32 n), .write 0x00C#13 4 (BitVec.ofInt 32 w), .write cmdOffset 4 (encode .rolw), .waitIdle] ∧
    pseudoOps (.rorw n w) =
      [.write 0x008#13 4 (BitVec.ofInt 32 n), .write 0x00C#13 4 (BitVec.ofInt 32 w), .write cmdOffset 4 (encode .rorw), .waitIdle]

/-! ## The command cycle -/

/-- A step runs the decoded command: a CMD write to an idle block is `exec` of the command its word decodes to, with an OKAY response, and the
engine's turn is `exec` of the command in flight (40_command_cycle.md R100, R101, R106; the two phases of `exec` are log 6). -/
def Obligations.StepRunsDecodedCommand : Prop :=
  (∀ (s : State) (v : Word) (i : Instr), presents s v → decode v = .command i → i.wellFormed = true →
    step s = mapNext (hostDone (.write .okay)) (exec i s)) ∧
  (∀ s : State, nextAgent s = .engine → s.busy = true → step s = mapNext popSchedule (exec s.latch.opl s))

/-- The errors of a presented word, their codes and their priority (60_exceptions.md R202; the codes by name 10_state.md R29). -/
def Obligations.CommandErrorPriority : Prop :=
  (errCode .none = 0#3 ∧ errCode .nullBuffer = 1#3 ∧ errCode .negativeCount = 2#3 ∧ errCode .invalidWindow = 3#3 ∧
    errCode .illegalCommand = 4#3) ∧
  ∀ (s : State) (v : Word), presents s v →
    ((∀ i, v ≠ encode i) → step s = .next (hostDone (.write .okay) { s with err := .illegalCommand })) ∧
    (∀ i, v = encode i →
      (s.bound = false → step s = .next (hostDone (.write .okay) { s with err := .nullBuffer })) ∧
      (s.bound = true →
        (i ≠ .shl → i ≠ .shr → s.count.toInt < 0 →
          step s = .next (hostDone (.write .okay) { s with err := .negativeCount })) ∧
        ((i = .rolw ∨ i = .rorw) → 0 ≤ s.count.toInt →
          (s.window.toInt < 0 ∨ s.window.toInt > 8 * (s.len.toNat : Int)) →
          step s = .next (hostDone (.write .okay) { s with err := .invalidWindow })) ∧
        ((i = .shl ∨ i = .shr ∨ 0 ≤ s.count.toInt) →
          ((i = .rolw ∨ i = .rorw) → 0 ≤ s.window.toInt ∧ s.window.toInt ≤ 8 * (s.len.toNat : Int)) →
          ∃ a, step s = .next (hostDone (.write .okay) a) ∧ a.err = .none ∧ a.busy = true ∧ a.latch.opl = i)))

/-- A rejected word writes its code to ERR and nothing else, gets OKAY, and the host reads the code in STATUS (60_exceptions.md R201). -/
def Obligations.RejectionWritesOnlyErr : Prop :=
  ∀ (s : State) (v : Word), presents s v →
    ∃ t, step s = .next t ∧
      (t.busy = true ∨
       ∃ e, e ≠ .none ∧ errCode e ≠ 0#3 ∧ t = hostDone (.write .okay) { s with err := e } ∧
         (hostDoes t (.read statusOffset 4) →
           ∃ w, step t = .next (hostDone (.read .okay (.word w)) t) ∧ w.extractLsb' 4 3 = errCode e))

/-- What acceptance latches: the command, the count modulo the period (8 x LEN, or the window), the window in effect and LEN
(40_command_cycle.md R102, R103). Every command is accepted under exactly these conditions (60_exceptions.md R202). -/
def Obligations.AcceptedCommandLatch : Prop :=
  ∀ s : State, s.busy = false → s.bound = true →
    (∀ i, (i = .shl ∨ i = .shr) →
      exec i s = .next { s with latch := ⟨i, 0, 8 * s.len.toNat, s.len.toNat⟩, err := .none, busy := true }) ∧
    (∀ i, (i = .rol ∨ i = .ror) → 0 ≤ s.count.toInt →
      exec i s = .next { s with
        latch := ⟨i, if 8 * s.len.toNat = 0 then 0 else s.count.toInt.toNat % (8 * s.len.toNat), 8 * s.len.toNat, s.len.toNat⟩,
        err := .none, busy := true }) ∧
    (∀ i, (i = .rolw ∨ i = .rorw) → 0 ≤ s.count.toInt → 0 ≤ s.window.toInt → s.window.toInt ≤ 8 * (s.len.toNat : Int) →
      exec i s = .next { s with
        latch := ⟨i, if s.window.toInt.toNat = 0 then 0 else s.count.toInt.toNat % s.window.toInt.toNat,
          s.window.toInt.toNat, s.len.toNat⟩,
        err := .none, busy := true })

/-- Acceptance of a valid command, inside the CMD write: the latch, ERR and BUSY all at once, and nothing else (40_command_cycle.md R104). -/
def Obligations.AcceptanceIsOneTransaction : Prop :=
  ∀ (s : State) (v : Word) (i : Instr), presents s v → decode v = .command i → operandError i s = none →
    step s = .next (hostDone (.write .okay) { s with latch := acceptedLatch i s, err := .none, busy := true })

/-- A valid command with nothing to do is still accepted and completed, and leaves BUF unchanged; an empty shift writes CARRY <- 0
(40_command_cycle.md R105). KL = 0 is a rotation's case: a shift has no count. -/
def Obligations.NothingToDoIsStillAccepted : Prop :=
  ∀ (s : State) (i : Instr), s.busy = false → operandError i s = none →
    (s.len = 0#13 ∨ (i ≠ .shl ∧ i ≠ .shr ∧ ((acceptedLatch i s).kl = 0 ∨ (acceptedLatch i s).wl = 0))) →
    ∃ a t, exec i s = .next a ∧ a.busy = true ∧ exec i a = .next t ∧ t.busy = false ∧ sameBuf s t ∧
      ((i = .shl ∨ i = .shr) → s.len = 0#13 → t.carry = false)

/-- What any completion leaves unchanged: everything but BUSY, the bytes below LENL and, for a shift, CARRY (40_command_cycle.md R106,
10_state.md R26, R33). That the latch is among what is unchanged is the model's reading (log 16). -/
def Obligations.CompletionFrame : Prop :=
  ∀ s : State, s.busy = true →
    ∃ t, exec s.latch.opl s = .next t ∧ t = { s with busy := false, carry := t.carry, buf := t.buf } ∧
      (∀ j, s.latch.lenl ≤ j → bufByte t j = bufByte s j) ∧
      (s.latch.opl ≠ .shl → s.latch.opl ≠ .shr → t.carry = s.carry)

/-- No step of a command writes an operand register, BOUND, CFG, or anything of the environment (10_state.md R22, R39). -/
def Obligations.CommandsKeepOperandRegisters : Prop :=
  ∀ (i : Instr) (s : State),
    ∃ t, exec i s = .next t ∧ t.count = s.count ∧ t.window = s.window ∧ t.len = s.len ∧ t.maxLen = s.maxLen ∧
      t.bound = s.bound ∧ t.resets = s.resets ∧ t.pending = s.pending ∧ t.schedule = s.schedule ∧ t.responses = s.responses

/-- The ranges of the latch of a command in flight (10_state.md R35). -/
def Obligations.InFlightLatchBounds : Prop :=
  ∀ s : State, BlockInv s → s.busy = true →
    s.bound = true ∧ s.latch.kl < 2 ^ 15 ∧ s.latch.wl ≤ 8 * s.maxLen.toNat ∧ s.latch.lenl = s.len.toNat ∧
      s.latch.wl ≤ 8 * s.latch.lenl ∧ (s.latch.wl = 0 → s.latch.kl = 0) ∧ (0 < s.latch.wl → s.latch.kl < s.latch.wl)

/-- The host cannot touch a command in flight: a host turn while BUSY = 1 changes nothing of the block (20_memory.md R64,
70_reset_and_hazards.md R240). -/
def Obligations.InFlightCommandIsFixed : Prop :=
  ∀ s : State, s.busy = true → nextAgent s = .host →
    ∃ t, step s = .next t ∧
      t = { s with pending := t.pending, schedule := t.schedule, responses := t.responses }

/-- The latch of an idle block is not observable: whatever it holds, the next step does the same (10_state.md R35). -/
def Obligations.IdleLatchIsHidden : Prop :=
  ∀ (s : State) (l : Latch), s.busy = false →
    ∃ t t', step s = .next t ∧ step { s with latch := l } = .next t' ∧ t = { t' with latch := t.latch } ∧
      (t.busy = true → t'.latch = t.latch)

/-- The block is stateless: the result of a command is a function of the command and of the active bytes, LEN, BOUND, COUNT and WINDOW
(10_state.md R37). -/
def Obligations.ResultDependsOnlyOnOperands : Prop :=
  ∀ (i : Instr) (s s' : State), s.busy = false → s'.busy = false → s.bound = s'.bound → s.count = s'.count →
    s.window = s'.window → s.len = s'.len → (∀ j < s.len.toNat, bufByte s j = bufByte s' j) →
    ∃ t t', runCommand i s = .next t ∧ runCommand i s' = .next t' ∧ t.err = t'.err ∧ t.busy = false ∧ t'.busy = false ∧
      (∀ j < s.len.toNat, bufByte t j = bufByte t' j) ∧
      ((i = .shl ∨ i = .shr) → t.err = .none → t.carry = t'.carry)

/-! ## The shift family -/

/-- The byte-lane equations of SHL and SHR, and their carry (41_shift.md R121, R126); bytes past LEN (10_state.md R33) and everything else
kept. That the latch is among what is kept is the model's reading (log 16). -/
def Obligations.ShiftLaneEquations : Prop :=
  ∀ s : State, s.busy = true →
    (s.latch.opl = .shl →
      ∃ t, exec .shl s = .next t ∧ t = { s with busy := false, carry := t.carry, buf := t.buf } ∧
        (∀ i < s.latch.lenl,
          bufByte t i = (bufByte s i <<< 1) ||| (if i + 1 < s.latch.lenl then bufByte s (i + 1) >>> 7 else 0#8)) ∧
        (∀ j, s.latch.lenl ≤ j → bufByte t j = bufByte s j) ∧
        (0 < s.latch.lenl → t.carry = (bufByte s 0).getLsbD 7) ∧ (s.latch.lenl = 0 → t.carry = false)) ∧
    (s.latch.opl = .shr →
      ∃ t, exec .shr s = .next t ∧ t = { s with busy := false, carry := t.carry, buf := t.buf } ∧
        (∀ i < s.latch.lenl,
          bufByte t i = (bufByte s i >>> 1) ||| (if 0 < i then bufByte s (i - 1) <<< 7 else 0#8)) ∧
        (∀ j, s.latch.lenl ≤ j → bufByte t j = bufByte s j) ∧
        (0 < s.latch.lenl → t.carry = (bufByte s (s.latch.lenl - 1)).getLsbD 0) ∧ (s.latch.lenl = 0 → t.carry = false))

/-- The one-bit left shift of a bit string of any length and of the number it stands for (41_shift.md R123), and SHL doing it to BUF.
That the latch is among what SHL leaves unchanged is the model's reading (log 16). -/
def Obligations.ShlMovesBitsLeft : Prop :=
  (∀ S : Bits, (S = [] → shl1 S = ([], false)) ∧
    (S ≠ [] → (shl1 S).1.length = S.length ∧ (shl1 S).2 = S.getD 0 false ∧
      (∀ k, k + 1 < S.length → (shl1 S).1.getD k false = S.getD (k + 1) false) ∧ (shl1 S).1.getD (S.length - 1) false = false ∧
      bitsValue (shl1 S).1 = (2 * bitsValue S) % 2 ^ S.length ∧ (shl1 S).2.toNat = bitsValue S / 2 ^ (S.length - 1))) ∧
  ∀ s : State, s.busy = true → s.latch.opl = .shl →
    ∃ t, exec .shl s = .next t ∧ t = { s with busy := false, carry := t.carry, buf := t.buf } ∧
      (s.latch.lenl = 0 → t.carry = false ∧ sameBuf s t) ∧
      (0 < s.latch.lenl →
        t.carry = bitAt s 0 ∧ (∀ k, k + 1 < 8 * s.latch.lenl → bitAt t k = bitAt s (k + 1)) ∧
        bitAt t (8 * s.latch.lenl - 1) = false ∧
        activeValue s.latch.lenl t = (2 * activeValue s.latch.lenl s) % 2 ^ (8 * s.latch.lenl) ∧
        t.carry.toNat = activeValue s.latch.lenl s / 2 ^ (8 * s.latch.lenl - 1)) ∧
      (∀ j, s.latch.lenl ≤ j → bufByte t j = bufByte s j)

/-- The one-bit right shift of a bit string of any length and of the number it stands for (41_shift.md R127), and SHR doing it to BUF.
That the latch is among what SHR leaves unchanged is the model's reading (log 16). -/
def Obligations.ShrMovesBitsRight : Prop :=
  (∀ S : Bits, (S = [] → shr1 S = ([], false)) ∧
    (S ≠ [] → (shr1 S).1.length = S.length ∧ (shr1 S).2 = S.getD (S.length - 1) false ∧ (shr1 S).1.getD 0 false = false ∧
      (∀ k, 1 ≤ k → k < S.length → (shr1 S).1.getD k false = S.getD (k - 1) false) ∧
      bitsValue (shr1 S).1 = bitsValue S / 2 ∧ (shr1 S).2.toNat = bitsValue S % 2)) ∧
  ∀ s : State, s.busy = true → s.latch.opl = .shr →
    ∃ t, exec .shr s = .next t ∧ t = { s with busy := false, carry := t.carry, buf := t.buf } ∧
      (s.latch.lenl = 0 → t.carry = false ∧ sameBuf s t) ∧
      (0 < s.latch.lenl →
        t.carry = bitAt s (8 * s.latch.lenl - 1) ∧ bitAt t 0 = false ∧
        (∀ k, 1 ≤ k → k < 8 * s.latch.lenl → bitAt t k = bitAt s (k - 1)) ∧
        activeValue s.latch.lenl t = activeValue s.latch.lenl s / 2 ∧
        t.carry.toNat = activeValue s.latch.lenl s % 2) ∧
      (∀ j, s.latch.lenl ≤ j → bufByte t j = bufByte s j)

/-- A shift of the empty buffer is accepted, changes no byte and clears CARRY (41_shift.md R126). -/
def Obligations.EmptyShiftClearsCarry : Prop :=
  ∀ (s : State) (i : Instr), (i = .shl ∨ i = .shr) → s.busy = false → s.bound = true → s.len = 0#13 →
    ∃ a t, exec i s = .next a ∧ a.busy = true ∧ a.err = .none ∧ exec i a = .next t ∧ t.busy = false ∧ t.carry = false ∧
      sameBuf s t

/-- The laws of the shifts on a bound buffer of at least one byte (41_shift.md R129). -/
def Obligations.ShiftLaws : Prop :=
  ∀ s : State, s.busy = false → s.bound = true → 0 < s.len.toNat →
    (∃ a t, runCommand .shl s = .next a ∧ runCommand .shr a = .next t ∧ bitAt t 0 = false ∧
      (∀ k, 1 ≤ k → k < 8 * s.len.toNat → bitAt t k = bitAt s k) ∧ t.carry = false) ∧
    (∃ a t, runCommand .shr s = .next a ∧ runCommand .shl a = .next t ∧ bitAt t (8 * s.len.toNat - 1) = false ∧
      (∀ k, k + 1 < 8 * s.len.toNat → bitAt t k = bitAt s k) ∧ t.carry = false) ∧
    (∃ t, runCommandTimes .shl (8 * s.len.toNat) s = .next t ∧ ∀ j < s.len.toNat, bufByte t j = 0#8) ∧
    (∃ t, runCommandTimes .shr (8 * s.len.toNat) s = .next t ∧ ∀ j < s.len.toNat, bufByte t j = 0#8)

/-! ## The full-buffer rotation family -/

/-- The one-bit full-buffer steps, position by position (42_rotate.md R141). -/
def Obligations.OneBitRotationSteps : Prop :=
  ∀ S : Bits, S ≠ [] →
    (rol1 S).length = S.length ∧ (ror1 S).length = S.length ∧
    ∀ k < S.length,
      (rol1 S).getD k false = S.getD ((k + 1) % S.length) false ∧
      (ror1 S).getD k false = S.getD ((k + S.length - 1) % S.length) false

/-- Where the wrapped bit of a step goes (42_rotate.md R144): on the bit string, and in the bytes of BUF for a rotation of one step. -/
def Obligations.WrappedBitPositions : Prop :=
  (∀ S : Bits, S ≠ [] →
    (rol1 S).getD (S.length - 1) false = S.getD 0 false ∧ (ror1 S).getD 0 false = S.getD (S.length - 1) false) ∧
  (∀ s : State, bitAt s 0 = (bufByte s 0).getLsbD 7 ∧
    ∀ n, 0 < n → bitAt s (8 * n - 1) = (bufByte s (n - 1)).getLsbD 0) ∧
  ∀ s : State, s.busy = true → s.latch.kl = 1 → 0 < s.latch.lenl →
    (s.latch.opl = .rol →
      ∃ t, exec .rol s = .next t ∧ (bufByte t (s.latch.lenl - 1)).getLsbD 0 = (bufByte s 0).getLsbD 7) ∧
    (s.latch.opl = .ror →
      ∃ t, exec .ror s = .next t ∧ (bufByte t 0).getLsbD 7 = (bufByte s (s.latch.lenl - 1)).getLsbD 0)

/-- The loop of one-bit steps is one rotation (42_rotate.md R145). -/
def Obligations.RotationClosedForm : Prop :=
  ∀ (S : Bits) (k : Nat), k < S.length →
    (∀ i < S.length, (Nat.iterate rol1 k S).getD i false = S.getD ((i + k) % S.length) false) ∧
    (∀ i < S.length, (Nat.iterate ror1 k S).getD i false = S.getD ((i + S.length - k) % S.length) false) ∧
    (Nat.iterate rol1 k S).length = S.length ∧ (Nat.iterate ror1 k S).length = S.length ∧
    bitsValue (Nat.iterate rol1 k S) =
      ((bitsValue S <<< k) ||| (bitsValue S >>> (S.length - k))) % 2 ^ S.length ∧
    Nat.iterate ror1 k S = Nat.iterate rol1 ((S.length - k) % S.length) S

/-- ROL and ROR complete: the active bits rotate by KL, everything else stays (40_command_cycle.md R106, 42_rotate.md R142, R143, R145).
That the latch is among what stays is the model's reading (log 16). -/
def Obligations.RotationCompletes : Prop :=
  ∀ s : State, s.busy = true → (s.latch.lenl = 0 ∨ s.latch.kl < 8 * s.latch.lenl) →
    (s.latch.opl = .rol →
      ∃ t, exec .rol s = .next t ∧ t = { s with busy := false, buf := t.buf } ∧
        (∀ k < 8 * s.latch.lenl, bitAt t k = bitAt s ((k + s.latch.kl) % (8 * s.latch.lenl))) ∧
        (∀ j, s.latch.lenl ≤ j → bufByte t j = bufByte s j)) ∧
    (s.latch.opl = .ror →
      ∃ t, exec .ror s = .next t ∧ t = { s with busy := false, buf := t.buf } ∧
        (∀ k < 8 * s.latch.lenl, bitAt t k = bitAt s ((k + 8 * s.latch.lenl - s.latch.kl) % (8 * s.latch.lenl))) ∧
        (∀ j, s.latch.lenl ≤ j → bufByte t j = bufByte s j))

/-- The laws of ROL and ROR on every bound buffer and every count that is not negative (42_rotate.md R146). The modulus of the fourth law
needs a buffer that is not empty. -/
def Obligations.RotationLaws : Prop :=
  ∀ s : State, s.busy = false → s.bound = true → 0 ≤ s.count.toInt →
    (∃ a t, runCommand .rol s = .next a ∧ runCommand .ror a = .next t ∧ sameBuf s t) ∧
    (∃ a t, runCommand .ror s = .next a ∧ runCommand .rol a = .next t ∧ sameBuf s t) ∧
    (∀ i, (i = .rol ∨ i = .ror) → ∃ t, runCommand i s = .next t ∧
      (s.count.toNat = 8 * s.len.toNat → sameBuf s t) ∧ (s.count = 0#32 → sameBuf s t) ∧
      (activeBits s.len.toNat t).count true = (activeBits s.len.toNat s).count true) ∧
    (0 < s.len.toNat →
      ∃ a b c, runCommand .rol s = .next a ∧
        runCommand .rol { s with count := BitVec.ofNat 32 (s.count.toNat % (8 * s.len.toNat)) } = .next b ∧
        runCommand .ror { s with
          count := BitVec.ofNat 32 ((8 * s.len.toNat - s.count.toNat % (8 * s.len.toNat)) % (8 * s.len.toNat)) } = .next c ∧
        sameBuf a b ∧ sameBuf a c)

/-! ## The windowed rotation family -/

/-- The one-bit windowed steps, position by position (43_rotate_window.md R162). -/
def Obligations.WindowStepPositions : Prop :=
  ∀ (S : Bits) (w : Nat), 1 ≤ w → w ≤ S.length →
    (∀ k, k + 1 < w → (rolw1 w S).getD k false = S.getD (k + 1) false) ∧
    (rolw1 w S).getD (w - 1) false = S.getD 0 false ∧
    (∀ k, w ≤ k → k < S.length → (rolw1 w S).getD k false = S.getD k false) ∧
    (rorw1 w S).getD 0 false = S.getD (w - 1) false ∧
    (∀ k, 1 ≤ k → k < w → (rorw1 w S).getD k false = S.getD (k - 1) false) ∧
    (∀ k, w ≤ k → k < S.length → (rorw1 w S).getD k false = S.getD k false) ∧
    (w = S.length → rolw1 w S = rol1 S ∧ rorw1 w S = ror1 S) ∧
    (w = 1 → rolw1 w S = S ∧ rorw1 w S = S)

/-- The loop of windowed steps is one rotation of the window with the padding kept (43_rotate_window.md R167). -/
def Obligations.WindowClosedForm : Prop :=
  ∀ (S : Bits) (w k : Nat), k < w → w ≤ S.length →
    (∀ i < w, (Nat.iterate (rolw1 w) k S).getD i false = S.getD ((i + k) % w) false) ∧
    (∀ i < w, (Nat.iterate (rorw1 w) k S).getD i false = S.getD ((i + w - k) % w) false) ∧
    (∀ i, w ≤ i → i < S.length →
      (Nat.iterate (rolw1 w) k S).getD i false = S.getD i false ∧ (Nat.iterate (rorw1 w) k S).getD i false = S.getD i false) ∧
    (Nat.iterate (rolw1 w) k S).length = S.length ∧ (Nat.iterate (rorw1 w) k S).length = S.length ∧
    bitsValue (Nat.iterate (rolw1 w) k S) =
      (((bitsValue S / 2 ^ (S.length - w)) <<< k ||| (bitsValue S / 2 ^ (S.length - w)) >>> (w - k)) % 2 ^ w) *
        2 ^ (S.length - w) + bitsValue S % 2 ^ (S.length - w)

/-- ROLW and RORW complete: the window rotates by KL (43_rotate_window.md R164, R165, R167), every padding bit is kept (R161), and so is
everything else (40_command_cycle.md R106, 10_state.md R33). That the latch is among what stays is the model's reading (log 16). -/
def Obligations.WindowedRotationCompletes : Prop :=
  ∀ s : State, s.busy = true → s.latch.wl ≤ 8 * s.latch.lenl →
    ((s.latch.wl = 0 ∧ s.latch.kl = 0) ∨ s.latch.kl < s.latch.wl) →
    (s.latch.opl = .rolw →
      ∃ t, exec .rolw s = .next t ∧ t = { s with busy := false, buf := t.buf } ∧
        (∀ k < s.latch.wl, bitAt t k = bitAt s ((k + s.latch.kl) % s.latch.wl)) ∧
        (∀ k, s.latch.wl ≤ k → k < 8 * s.latch.lenl → bitAt t k = bitAt s k) ∧
        (∀ j, s.latch.lenl ≤ j → bufByte t j = bufByte s j)) ∧
    (s.latch.opl = .rorw →
      ∃ t, exec .rorw s = .next t ∧ t = { s with busy := false, buf := t.buf } ∧
        (∀ k < s.latch.wl, bitAt t k = bitAt s ((k + s.latch.wl - s.latch.kl) % s.latch.wl)) ∧
        (∀ k, s.latch.wl ≤ k → k < 8 * s.latch.lenl → bitAt t k = bitAt s k) ∧
        (∀ j, s.latch.lenl ≤ j → bufByte t j = bufByte s j))

/-- The laws of ROLW and RORW on every bound buffer, every w with 1 <= w <= L and every count that is not negative
(43_rotate_window.md R168). -/
def Obligations.WindowLaws : Prop :=
  ∀ s : State, s.busy = false → s.bound = true → 0 ≤ s.count.toInt → 1 ≤ s.window.toInt →
    s.window.toInt ≤ 8 * (s.len.toNat : Int) →
    (∃ a t, runCommand .rolw s = .next a ∧ runCommand .rorw a = .next t ∧ sameBuf s t) ∧
    (∃ a t, runCommand .rorw s = .next a ∧ runCommand .rolw a = .next t ∧ sameBuf s t) ∧
    (∃ a b c, runCommand .rolw s = .next a ∧
      runCommand .rolw { s with count := BitVec.ofNat 32 (s.count.toNat % s.window.toNat) } = .next b ∧
      runCommand .rorw { s with
        count := BitVec.ofNat 32 ((s.window.toNat - s.count.toNat % s.window.toNat) % s.window.toNat) } = .next c ∧
      sameBuf a b ∧ sameBuf a c ∧ (s.count = s.window → sameBuf s a)) ∧
    (s.window.toInt = 8 * (s.len.toNat : Int) →
      ∃ a b c d, runCommand .rolw s = .next a ∧ runCommand .rol s = .next b ∧ sameBuf a b ∧
        runCommand .rorw s = .next c ∧ runCommand .ror s = .next d ∧ sameBuf c d) ∧
    (∀ i, (i = .rolw ∨ i = .rorw) → ∃ t, runCommand i s = .next t ∧
      ((activeBits s.len.toNat t).take s.window.toNat).count true =
        ((activeBits s.len.toNat s).take s.window.toNat).count true ∧
      (∀ k, s.window.toNat ≤ k → k < 8 * s.len.toNat → bitAt t k = bitAt s k))

/-! ## Registers -/

/-- The LEN register (10_state.md R32). -/
def Obligations.LenRegister : Prop :=
  (∀ (s : State) (v : Word), hostDoes s (.write 0x010#13 4 v) → s.busy = false →
    (v.toNat ≤ s.maxLen.toNat →
      ∃ t, step s = .next t ∧ t = hostDone (.write .okay) { s with len := t.len, bound := true } ∧
        t.len.toNat = v.toNat ∧ t.len.toNat ≤ s.maxLen.toNat ∧ (v = 0#32 → activeBits t.len.toNat t = [])) ∧
    (s.maxLen.toNat < v.toNat → step s = .next (hostDone (.write .okay) { s with bound := false }))) ∧
  (∀ (s : State) (v : Word), hostDoes s (.write 0x010#13 4 v) → s.busy = true →
    step s = .next (hostDone (.write .error) s)) ∧
  (∀ s : State, hostDoes s (.read 0x010#13 4) →
    step s = .next (hostDone (.read .okay (.word (s.len.setWidth 32))) s)) ∧
  State.reset.len = 0#13

/-- The COUNT and WINDOW registers (10_state.md R30, R31): a write to an idle block stores the value, a write while BUSY = 1 is refused, a
read returns the stored value at any time. -/
def Obligations.CountAndWindowRegisters : Prop :=
  (∀ (s : State) (v : Word), hostDoes s (.write 0x008#13 4 v) →
    step s = if s.busy = true then .next (hostDone (.write .error) s) else .next (hostDone (.write .okay) { s with count := v })) ∧
  (∀ (s : State) (v : Word), hostDoes s (.write 0x00C#13 4 v) →
    step s = if s.busy = true then .next (hostDone (.write .error) s) else .next (hostDone (.write .okay) { s with window := v })) ∧
  (∀ s : State, hostDoes s (.read 0x008#13 4) → step s = .next (hostDone (.read .okay (.word s.count)) s)) ∧
  (∀ s : State, hostDoes s (.read 0x00C#13 4) → step s = .next (hostDone (.read .okay (.word s.window)) s))

/-- ID and CFG (10_state.md R27, R28): what they always read, and that a write has no effect and gets OKAY. -/
def Obligations.IdAndCfgRegisters : Prop :=
  (∀ s : State, hostDoes s (.read 0x014#13 4) →
    step s = .next (hostDone (.read .okay (.word 0x42525301#32)) s)) ∧
  (0x42525301#32).extractLsb' 8 24 = 0x42#8 ++ 0x52#8 ++ 0x53#8 ∧ (0x42525301#32).extractLsb' 0 8 = 1#8 ∧
  (∀ s : State, hostDoes s (.read 0x018#13 4) →
    ∃ w : Word, step s = .next (hostDone (.read .okay (.word w)) s) ∧ w.extractLsb' 0 13 = s.maxLen ∧
      w.extractLsb' 13 19 = 0#19) ∧
  (∀ (s : State) (v : Word) (off : Offset), off = 0x014#13 ∨ off = 0x018#13 → hostDoes s (.write off 4 v) →
    step s = .next (hostDone (.write .okay) s))

/-- CMD reads 0 and STATUS reads its fields, at any time (10_state.md R23, R24, R34); a write to STATUS is ignored with OKAY. -/
def Obligations.CmdAndStatusReads : Prop :=
  (∀ s : State, hostDoes s (.read 0x000#13 4) → step s = .next (hostDone (.read .okay (.word 0#32)) s)) ∧
  (∀ s : State, hostDoes s (.read 0x004#13 4) →
    ∃ w : Word, step s = .next (hostDone (.read .okay (.word w)) s) ∧
      w.getLsbD 0 = s.busy ∧ w.getLsbD 1 = s.carry ∧ w.getLsbD 2 = s.bound ∧ w.getLsbD 3 = false ∧
      w.extractLsb' 4 3 = errCode s.err ∧ w.extractLsb' 7 25 = 0#25) ∧
  (∀ (s : State) (v : Word), hostDoes s (.write 0x004#13 4 v) → step s = .next (hostDone (.write .okay) s))

/-- Who writes which field of STATUS (10_state.md R39, with R24, R25, R26 and R29): any change of BUSY is an acceptance or a completion, of
CARRY the completion of a shift, of BOUND a LEN write, of ERR a word presented to CMD, or else the step is a reset. -/
def Obligations.StatusFieldWriters : Prop :=
  ∀ s : State, ∃ t, step s = .next t ∧
    (nextAgent s = .platform ∨
      ((t.busy ≠ s.busy →
        (s.busy = false ∧ t.err = .none ∧ ∃ i, presents s (encode i) ∧ t.latch.opl = i) ∨
        (s.busy = true ∧ nextAgent s = .engine)) ∧
       (t.carry ≠ s.carry → s.busy = true ∧ nextAgent s = .engine ∧ (s.latch.opl = .shl ∨ s.latch.opl = .shr)) ∧
       (t.bound ≠ s.bound → s.busy = false ∧ ∃ v, hostDoes s (.write 0x010#13 4 v)) ∧
       (t.err ≠ s.err → ∃ v, presents s v)))

/-! ## The host bus -/

/-- A register is reached only by a 4-byte transaction at its own offset (20_memory.md R54). -/
def Obligations.RegisterAccessSizes : Prop :=
  ∀ (s : State) (off : Offset) (n : Nat) (v : Word), off.toNat ≤ 0x1B →
    ((n = 1 ∨ off.toNat % 4 ≠ 0) →
      (hostDoes s (.read off n) → step s = .next (hostDone (.read .error (zeroData n)) s)) ∧
      (hostDoes s (.write off n v) → step s = .next (hostDone (.write .error) s))) ∧
    (n = 4 → off.toNat % 4 = 0 →
      (hostDoes s (.read off n) → ∃ w, step s = .next (hostDone (.read .okay (.word w)) s)) ∧
      (hostDoes s (.write off n v) → s.busy = false → ∃ t, step s = .next t ∧ t.responses = .write .okay :: s.responses))

/-- The BUF region (20_memory.md R55), with `i = off - 0x1000`. A 1-byte write carries 8 bits (R50); that it stores the low byte of a larger
value, which is no well-formed operation, is the model's choice (log 14). -/
def Obligations.BufTransactions : Prop :=
  ∀ (s : State) (off : Offset) (i n : Nat) (v : Word), off.toNat = 0x1000 + i →
    (s.busy = false → i < s.maxLen.toNat →
      (hostDoes s (.read off 1) → step s = .next (hostDone (.read .okay (.byte (bufByte s i))) s)) ∧
      (hostDoes s (.write off 1 v) →
        ∃ t, step s = .next t ∧ t = hostDone (.write .okay) { s with buf := t.buf } ∧
          ∀ j, bufByte t j = if j = i then v.setWidth 8 else bufByte s j) ∧
      (i % 4 = 0 →
        (hostDoes s (.read off 4) →
          ∃ w : Word, step s = .next (hostDone (.read .okay (.word w)) s) ∧
            ∀ j < 4, w.extractLsb' (8 * (3 - j)) 8 = if i + j < s.maxLen.toNat then bufByte s (i + j) else 0#8) ∧
        (hostDoes s (.write off 4 v) →
          ∃ t, step s = .next t ∧ t = hostDone (.write .okay) { s with buf := t.buf } ∧
            ∀ j, bufByte t j =
              if i ≤ j ∧ j < i + 4 ∧ j < s.maxLen.toNat then v.extractLsb' (8 * (3 - (j - i))) 8 else bufByte s j))) ∧
    (((n = 4 ∧ i % 4 ≠ 0) ∨ s.maxLen.toNat ≤ i ∨ s.busy = true) →
      (hostDoes s (.read off n) → step s = .next (hostDone (.read .error (zeroData n)) s)) ∧
      (hostDoes s (.write off n v) → step s = .next (hostDone (.write .error) s)))

/-- The lane order of a 4-byte BUF transaction (20_memory.md R56): most significant byte first, bits 8 i to 8 i + 31 of the bit string, in
agreement with 1-byte reads. -/
def Obligations.BufLaneOrder : Prop :=
  ∀ (s : State) (off : Offset) (i : Nat), off.toNat = 0x1000 + i → i % 4 = 0 → i + 3 < s.maxLen.toNat → s.busy = false →
    (hostDoes s (.read off 4) →
      ∃ w : Word, step s = .next (hostDone (.read .okay (.word w)) s) ∧
        w.extractLsb' 24 8 = bufByte s i ∧ w.extractLsb' 16 8 = bufByte s (i + 1) ∧
        w.extractLsb' 8 8 = bufByte s (i + 2) ∧ w.extractLsb' 0 8 = bufByte s (i + 3) ∧
        ∀ j < 32, w.getMsbD j = bitAt s (8 * i + j)) ∧
    (∀ v : Word, hostDoes s (.write off 4 v) →
      ∃ t, step s = .next t ∧ t = hostDone (.write .okay) { s with buf := t.buf } ∧
        bufByte t i = v.extractLsb' 24 8 ∧ bufByte t (i + 1) = v.extractLsb' 16 8 ∧
        bufByte t (i + 2) = v.extractLsb' 8 8 ∧ bufByte t (i + 3) = v.extractLsb' 0 8) ∧
    (∀ (off1 : Offset) (j : Nat), off1.toNat = 0x1000 + (i + j) → j < 4 → hostDoes s (.read off1 1) →
      step s = .next (hostDone (.read .okay (.byte (bufByte s (i + j)))) s))

/-- The causes of a bus error response (60_exceptions.md R210): each changes nothing and reads 0. -/
def Obligations.BusErrorCauses : Prop :=
  ∀ (s : State) (off : Offset) (n : Nat) (v : Word),
    (((n ≠ 1 ∧ n ≠ 4) ∨ (off.toNat ≤ 0x1B ∧ (n = 1 ∨ off.toNat % 4 ≠ 0)) ∨
        (0x1000 ≤ off.toNat ∧ n = 4 ∧ off.toNat % 4 ≠ 0) ∨
        (0x001C ≤ off.toNat ∧ off.toNat ≤ 0x0FFF) ∨ 0x1000 + s.maxLen.toNat ≤ off.toNat ∨
        (s.busy = true ∧ 0x1000 ≤ off.toNat)) →
      (hostDoes s (.read off n) → step s = .next (hostDone (.read .error (zeroData n)) s)) ∧
      (hostDoes s (.write off n v) → step s = .next (hostDone (.write .error) s))) ∧
    (s.busy = true → (off = 0x000#13 ∨ off = 0x008#13 ∨ off = 0x00C#13 ∨ off = 0x010#13) →
      hostDoes s (.write off n v) → step s = .next (hostDone (.write .error) s)) ∧
    (zeroData 1 = .byte 0#8 ∧ zeroData 4 = .word 0#32)

/-- Every transaction gets one response, and one with an ERROR response changes nothing of the block and reads 0 (20_memory.md R51). -/
def Obligations.ErrorResponseChangesNothing : Prop :=
  ∀ (s : State) (op : HostOp), hostDoes s op →
    ∃ t r, step s = .next t ∧ t.responses = r :: s.responses ∧
      (isBusError r = true →
        t = hostDone r s ∧ t.err = s.err ∧
        (r = .write .error ∨ r = .read .error (.byte 0#8) ∨ r = .read .error (.word 0#32) ∨ r = .read .error (.other 0)))

/-- Reads have no side effects and repeat; a CMD write starts an acceptance and a LEN write writes BOUND; STATUS, ID and CFG ignore writes
with OKAY; every write but CMD's is idempotent (20_memory.md R59). -/
def Obligations.SideEffectsOfTransactions : Prop :=
  (∀ (s : State) (off : Offset) (n : Nat), hostDoes s (.read off n) →
    ∃ r, step s = .next (hostDone r s) ∧
      ∀ u : State, u = { s with pending := u.pending, schedule := u.schedule, responses := u.responses } →
        hostDoes u (.read off n) → step u = .next (hostDone r u)) ∧
  (∀ (s : State) (v : Word), presents s v → step s = mapNext (hostDone (.write .okay)) (presentWord v s)) ∧
  (∀ (s : State) (v : Word), hostDoes s (.write 0x010#13 4 v) → s.busy = false →
    ∃ t, step s = .next t ∧ t.bound = decide (v.toNat ≤ s.maxLen.toNat)) ∧
  (∀ (s : State) (off : Offset) (v : Word), (off = 0x004#13 ∨ off = 0x014#13 ∨ off = 0x018#13) →
    hostDoes s (.write off 4 v) → step s = .next (hostDone (.write .okay) s)) ∧
  (∀ (s : State) (off : Offset) (n : Nat) (v : Word), BlockInv s → off ≠ 0x000#13 → hostDoes s (.write off n v) →
    ∃ t, step s = .next t ∧
      (hostDoes t (.write off n v) →
        ∃ u, step t = .next u ∧
          u = { t with pending := u.pending, schedule := u.schedule, responses := u.responses }))

/-- While BUSY = 1 (70_reset_and_hazards.md R240): writes to CMD, COUNT, WINDOW and LEN and every BUF transaction get ERROR and have no
effect; register reads, and writes to STATUS, ID and CFG, are as at any other time. -/
def Obligations.BusyHazard : Prop :=
  ∀ (s : State) (off : Offset) (n : Nat) (v : Word), s.busy = true →
    ((off = 0x000#13 ∨ off = 0x008#13 ∨ off = 0x00C#13 ∨ off = 0x010#13) → hostDoes s (.write off n v) →
      step s = .next (hostDone (.write .error) s)) ∧
    (0x1000 ≤ off.toNat → off.toNat < 0x1000 + s.maxLen.toNat →
      (hostDoes s (.read off n) → step s = .next (hostDone (.read .error (zeroData n)) s)) ∧
      (hostDoes s (.write off n v) → step s = .next (hostDone (.write .error) s))) ∧
    (∀ r, off = registerOffset r → hostDoes s (.read off 4) →
      step s = .next (hostDone (.read .okay (.word (readRegister r s))) s) ∧
      (r ≠ .status → readRegister r s = readRegister r { s with busy := false })) ∧
    ((off = 0x004#13 ∨ off = 0x014#13 ∨ off = 0x018#13) → hostDoes s (.write off 4 v) →
      step s = .next (hostDone (.write .okay) s))

/-- A host that breaks its duty while a command is in flight is refused: the response shows it and the write is lost
(70_reset_and_hazards.md R241). -/
def Obligations.UndutifulTransactionIsRefused : Prop :=
  ∀ (s : State) (op : HostOp), hostDoes s op → keepsDuty s = false →
    ∃ r, isBusError r = true ∧ step s = .next (hostDone r s)

/-- A platform address of the block becomes the offset `address - BASE` (20_memory.md R52), whatever BASE is (log 12). -/
def Obligations.PlatformAddressBecomesOffset : Prop :=
  ∀ off : Offset, platformOffset (Config.base + off.toNat) = some off
end

