-- ==== Sys2Proof/Laws/BitString.lean ====
section
/-!
SUPPORT. The laws of bit strings: lengths, the bit at each position after a shift, the bits of a packed byte, and the number a string
stands for, bit by bit.
-/

namespace Sys2Proof.Machine

/-! ## The one-bit shifts -/

@[simp] theorem shl1_length (S : Bits) : (shl1 S).1.length = S.length := by
  cases S <;> simp [shl1]

@[simp] theorem shr1_length (S : Bits) : (shr1 S).1.length = S.length := by
  rcases List.eq_nil_or_concat S with rfl | ⟨T, c, rfl⟩ <;> simp [shr1]

/-- Position k of a left-shifted string is position k + 1 of the string, and 0 at the end. -/
theorem shl1_getD (S : Bits) (k : Nat) : (shl1 S).1.getD k false = S.getD (k + 1) false := by
  cases S with
  | nil => simp [shl1]
  | cons c rest =>
    simp only [shl1, List.getD_eq_getElem?_getD, List.getElem?_cons_succ]
    rw [List.getElem?_append]
    split
    · rfl
    · rename_i h
      rw [List.getElem?_eq_none (by omega : rest.length ≤ k)]
      cases k - rest.length <;> simp

/-- The carry of a left shift is position 0 (0 for the empty string). -/
theorem shl1_carry (S : Bits) : (shl1 S).2 = S.getD 0 false := by
  cases S <;> simp [shl1]

/-- Position 0 of a right-shifted string is 0. -/
theorem shr1_getD_zero (S : Bits) : (shr1 S).1.getD 0 false = false := by
  rcases List.eq_nil_or_concat S with rfl | ⟨T, c, rfl⟩ <;> simp [shr1]

/-- Position k + 1 of a right-shifted string is position k of the string, within the string. -/
theorem shr1_getD_succ (S : Bits) (k : Nat) (h : k + 1 < S.length) :
    (shr1 S).1.getD (k + 1) false = S.getD k false := by
  rcases List.eq_nil_or_concat S with rfl | ⟨T, c, rfl⟩
  · simp at h
  · simp only [List.concat_eq_append, List.length_append, List.length_singleton] at h
    simp only [shr1, List.concat_eq_append, List.getLast?_append, List.getLast?_singleton, Option.some_or,
      List.dropLast_concat, List.getD_eq_getElem?_getD, List.getElem?_cons_succ]
    rw [List.getElem?_append_left (by omega)]

/-- The carry of a right shift is the last position (0 for the empty string). -/
theorem shr1_carry (S : Bits) : (shr1 S).2 = S.getD (S.length - 1) false := by
  rcases List.eq_nil_or_concat S with rfl | ⟨T, c, rfl⟩ <;> simp [shr1]

/-! ## Rotation steps keep the length -/

@[simp] theorem rol1_length (S : Bits) : (rol1 S).length = S.length := by simp [rol1]

@[simp] theorem ror1_length (S : Bits) : (ror1 S).length = S.length := by simp [ror1]

@[simp] theorem windowMask_length (w L : Nat) : (windowMask w L).length = L := by simp [windowMask]

@[simp] theorem restorePadding_length (w : Nat) (T S : Bits) (h : T.length = S.length) :
    (restorePadding w T S).length = S.length := by
  simp [restorePadding, bitsOr, bitsAnd, bitsNot, h]

@[simp] theorem rolw1_length (w : Nat) (S : Bits) : (rolw1 w S).length = S.length := by
  simp [rolw1]

@[simp] theorem rorw1_length (w : Nat) (S : Bits) : (rorw1 w S).length = S.length := by
  simp [rorw1]

/-- A step that keeps the length keeps it however often it is applied. -/
theorem iterate_length (f : Bits → Bits) (hf : ∀ S, (f S).length = S.length) (k : Nat) (S : Bits) :
    (Nat.iterate f k S).length = S.length := by
  induction k generalizing S with
  | zero => rfl
  | succ k ih => rw [Function.iterate_succ_apply, ih, hf]

/-- The boundary mask: the window from T, the padding from S. -/
theorem restorePadding_getElem? (w : Nat) (T S : Bits) (h : T.length = S.length) (k : Nat) :
    (restorePadding w T S)[k]? = if k < w then T[k]? else S[k]? := by
  by_cases hk : k < S.length
  · have hT : k < T.length := by omega
    have hL : k < (restorePadding w T S).length := by rw [restorePadding_length w T S h]; exact hk
    rw [List.getElem?_eq_getElem hL, List.getElem?_eq_getElem hT, List.getElem?_eq_getElem hk]
    by_cases hw : k < w <;>
      simp [restorePadding, bitsOr, bitsAnd, bitsNot, windowMask, hw]
  · have hL : (restorePadding w T S).length ≤ k := by rw [restorePadding_length w T S h]; omega
    rw [List.getElem?_eq_none hL, List.getElem?_eq_none (by omega : T.length ≤ k),
      List.getElem?_eq_none (by omega : S.length ≤ k)]
    simp

/-! ## Packed bytes -/

/-- The eight bits joined in a byte, bit 7 first. -/
theorem joined_getMsbD (a b c d e f g h : Bool) (j : Fin 8) :
    (BitVec.ofBool a ++ BitVec.ofBool b ++ BitVec.ofBool c ++ BitVec.ofBool d ++ BitVec.ofBool e ++ BitVec.ofBool f ++
      BitVec.ofBool g ++ BitVec.ofBool h : Byte).getMsbD j = [a, b, c, d, e, f, g, h].getD j false := by
  revert a b c d e f g h j; decide

/-- Bit 7 - j of the packed byte i is position 8 i + j of the string. -/
theorem byteOfBits_getMsbD (S : Bits) (i j : Nat) (hj : j < 8) :
    (byteOfBits S i).getMsbD j = S.getD (8 * i + j) false := by
  rw [byteOfBits, joined_getMsbD _ _ _ _ _ _ _ _ ⟨j, hj⟩]
  have h : j = 0 ∨ j = 1 ∨ j = 2 ∨ j = 3 ∨ j = 4 ∨ j = 5 ∨ j = 6 ∨ j = 7 := by omega
  rcases h with rfl | rfl | rfl | rfl | rfl | rfl | rfl | rfl <;> rfl

/-- Two bytes with the same eight bits are equal. -/
theorem byte_ext (b c : Byte) (h : ∀ j < 8, b.getMsbD j = c.getMsbD j) : b = c :=
  BitVec.eq_of_getMsbD_eq h

/-! ## The number a string stands for -/

theorem bitsValue_foldl (S : Bits) (v : Nat) :
    S.foldl (fun v b => 2 * v + b.toNat) v = 2 ^ S.length * v + bitsValue S := by
  induction S generalizing v with
  | nil => simp [bitsValue]
  | cons c rest ih =>
    rw [bitsValue, List.foldl_cons, List.foldl_cons, ih, ih (2 * 0 + c.toNat), List.length_cons, pow_succ]
    ring

@[simp] theorem bitsValue_nil : bitsValue [] = 0 := rfl

/-- The first position is the most significant bit. -/
theorem bitsValue_cons (c : Bool) (S : Bits) : bitsValue (c :: S) = 2 ^ S.length * c.toNat + bitsValue S := by
  rw [bitsValue, List.foldl_cons, bitsValue_foldl]; simp

/-- The value of two strings joined. -/
theorem bitsValue_append (S T : Bits) : bitsValue (S ++ T) = 2 ^ T.length * bitsValue S + bitsValue T := by
  rw [bitsValue, List.foldl_append, bitsValue_foldl]; rfl

theorem bitsValue_lt (S : Bits) : bitsValue S < 2 ^ S.length := by
  induction S with
  | nil => simp
  | cons c S ih =>
    rw [bitsValue_cons, List.length_cons, pow_succ]
    cases c <;> simp <;> omega

/-- Bit j of the value of a string of length L is position L - 1 - j. -/
theorem bitsValue_testBit (S : Bits) (j : Nat) :
    (bitsValue S).testBit j = (decide (j < S.length) && S.getD (S.length - 1 - j) false) := by
  induction S with
  | nil => simp
  | cons c S ih =>
    rw [bitsValue_cons, Nat.testBit_two_pow_mul_add _ (bitsValue_lt S), ih]
    by_cases h : j < S.length
    · have h2 : (c :: S).length - 1 - j = (S.length - 1 - j) + 1 := by simp; omega
      rw [h2]
      have h3 : j < (c :: S).length := by simp; omega
      simp [h]
      omega
    · by_cases h2 : j = S.length
      · subst h2; cases c <;> simp
      · have h3 : ¬ j < (c :: S).length := by simp; omega
        have h4 : ∃ d, j - S.length = d + 1 := ⟨j - S.length - 1, by omega⟩
        obtain ⟨d, hd⟩ := h4
        simp only [h, h3, hd, decide_false, Bool.false_and, if_false]
        cases c <;> simp [Nat.testBit_add_one]

end Sys2Proof.Machine
end

