-- ==== Sys2Proof/Laws/Memory.lean ====
section
/-!
SUPPORT. The laws of BUF's storage: a read after a write, and the canonical form kept by every memory operation.
-/

namespace Sys2Proof.Machine

@[simp] theorem readCell?_nil (a : Nat) : readCell? a [] = none := rfl

/-- A read after a write: the value written at its index, the old value elsewhere. -/
theorem readCell?_writeCell (a b : Nat) (v : Byte) (m : Memory) :
    readCell? a (writeCell b v m) = if a = b then some v else readCell? a m := by
  induction m with
  | nil => simp [writeCell, readCell?]
  | cons c m ih =>
    obtain ⟨k, w⟩ := c
    by_cases h1 : b < k
    · simp [writeCell, readCell?, h1]
    · by_cases h2 : b = k
      · subst h2
        by_cases h3 : a = b <;> simp [writeCell, readCell?, h3]
      · by_cases h3 : a = k
        · subst h3
          simp [writeCell, readCell?, h1, h2, Ne.symm h2]
        · simp [writeCell, readCell?, h1, h2, h3, ih]

/-- A read after a run of writes at the indices 0 to n - 1. -/
theorem readCell?_writeCells (f : Nat → Byte) (n a : Nat) (m : Memory) :
    readCell? a (writeCells f n m) = if a < n then some (f a) else readCell? a m := by
  induction n with
  | zero => simp [writeCells]
  | succ n ih =>
    rw [writeCells, readCell?_writeCell, ih]
    by_cases h : a = n
    · subst h; simp
    · have : a < n + 1 ↔ a < n := by omega
      simp [h, this]

/-- The indices listed after a write are the old ones and the written one. -/
theorem mem_writeCell (a : Nat) (v : Byte) (m : Memory) (c : Host.Cell) (h : c ∈ writeCell a v m) :
    c.1 = a ∨ c ∈ m := by
  induction m with
  | nil => simp only [writeCell, List.mem_singleton] at h; exact .inl (by rw [h])
  | cons d m ih =>
    obtain ⟨k, w⟩ := d
    simp only [writeCell] at h
    split at h
    · rcases List.mem_cons.mp h with h | h
      · exact .inl (by rw [h])
      · exact .inr h
    · split at h
      · rcases List.mem_cons.mp h with h | h
        · exact .inl (by rw [h])
        · exact .inr (List.mem_cons_of_mem _ h)
      · rcases List.mem_cons.mp h with h | h
        · exact .inr (by rw [h]; exact List.mem_cons_self)
        · rcases ih h with h | h
          · exact .inl h
          · exact .inr (List.mem_cons_of_mem _ h)

/-- The indices listed after a run of writes are the old ones and those below n. -/
theorem mem_writeCells (f : Nat → Byte) (n : Nat) (m : Memory) (c : Host.Cell) (h : c ∈ writeCells f n m) :
    c.1 < n ∨ c ∈ m := by
  induction n with
  | zero => exact .inr h
  | succ n ih =>
    rcases mem_writeCell _ _ _ _ h with h | h
    · exact .inl (by omega)
    · rcases ih h with h | h
      · exact .inl (by omega)
      · exact .inr h

/-- One write keeps the canonical form. -/
theorem memoryWf_writeCell (a : Nat) (v : Byte) (m : Memory) (h : memoryWf m) : memoryWf (writeCell a v m) := by
  induction m with
  | nil => simp [writeCell, memoryWf]
  | cons d m ih =>
    obtain ⟨k, w⟩ := d
    simp only [memoryWf, List.map_cons, List.pairwise_cons] at h
    simp only [writeCell]
    split
    · rename_i h1
      simp only [memoryWf, List.map_cons, List.pairwise_cons, List.mem_cons]
      refine ⟨?_, h⟩
      rintro x (rfl | hx)
      · exact h1
      · exact Nat.lt_trans h1 (h.1 x hx)
    · split
      · rename_i h1 h2
        subst h2
        exact List.pairwise_cons.mpr h
      · rename_i h1 h2
        refine List.pairwise_cons.mpr ⟨?_, ih h.2⟩
        intro x hx
        obtain ⟨c, hc, rfl⟩ := List.mem_map.mp hx
        rcases mem_writeCell _ _ _ _ hc with hc | hc
        · rw [hc]; show k < a; omega
        · exact h.1 _ (List.mem_map_of_mem hc)

/-- A run of writes keeps the canonical form. -/
theorem memoryWf_writeCells (f : Nat → Byte) (n : Nat) (m : Memory) (h : memoryWf m) :
    memoryWf (writeCells f n m) := by
  induction n with
  | zero => exact h
  | succ n ih => exact memoryWf_writeCell _ _ _ ih

/-- Writing the byte that is already listed changes nothing, in the canonical form. -/
theorem writeCell_of_readCell? (a : Nat) (v : Byte) (m : Memory) (h : memoryWf m) (hr : readCell? a m = some v) :
    writeCell a v m = m := by
  induction m with
  | nil => simp at hr
  | cons d m ih =>
    obtain ⟨k, w⟩ := d
    have h' := List.pairwise_cons.mp h
    by_cases hk : a = k
    · subst hk
      have hw : w = v := by simpa [readCell?] using hr
      subst hw
      simp [writeCell]
    · have hr' : readCell? a m = some v := by simpa [readCell?, hk] using hr
      have hlt : k < a := by
        have hmem : a ∈ m.map Prod.fst := by
          clear ih h h' hr hk
          induction m with
          | nil => simp at hr'
          | cons e m ih2 =>
            obtain ⟨l, x⟩ := e
            by_cases hl : a = l
            · simp [hl]
            · have : readCell? a m = some v := by simpa [readCell?, hl] using hr'
              exact List.mem_cons_of_mem _ (ih2 this)
        exact h'.1 a hmem
      have h1 : ¬ a < k := by omega
      simp [writeCell, h1, hk, ih h'.2 hr']

end Sys2Proof.Machine
end

