-- ==== Sys2Proof/Laws/State.lean ====
section
/-!
SUPPORT. One lemma per field per named update of the state (Machine/Ops.lean), so that no later proof unfolds a record update.
-/

namespace Sys2Proof.Machine

/-! ## setCount -/

@[simp] theorem setCount_busy (v : Word) (s : State) : (setCount v s).busy = s.busy := rfl
@[simp] theorem setCount_carry (v : Word) (s : State) : (setCount v s).carry = s.carry := rfl
@[simp] theorem setCount_bound (v : Word) (s : State) : (setCount v s).bound = s.bound := rfl
@[simp] theorem setCount_err (v : Word) (s : State) : (setCount v s).err = s.err := rfl
@[simp] theorem setCount_count (v : Word) (s : State) : (setCount v s).count = v := rfl
@[simp] theorem setCount_window (v : Word) (s : State) : (setCount v s).window = s.window := rfl
@[simp] theorem setCount_len (v : Word) (s : State) : (setCount v s).len = s.len := rfl
@[simp] theorem setCount_maxLen (v : Word) (s : State) : (setCount v s).maxLen = s.maxLen := rfl
@[simp] theorem setCount_buf (v : Word) (s : State) : (setCount v s).buf = s.buf := rfl
@[simp] theorem setCount_latch (v : Word) (s : State) : (setCount v s).latch = s.latch := rfl
@[simp] theorem setCount_resets (v : Word) (s : State) : (setCount v s).resets = s.resets := rfl
@[simp] theorem setCount_pending (v : Word) (s : State) : (setCount v s).pending = s.pending := rfl
@[simp] theorem setCount_schedule (v : Word) (s : State) : (setCount v s).schedule = s.schedule := rfl
@[simp] theorem setCount_responses (v : Word) (s : State) : (setCount v s).responses = s.responses := rfl

/-! ## setWindow -/

@[simp] theorem setWindow_busy (v : Word) (s : State) : (setWindow v s).busy = s.busy := rfl
@[simp] theorem setWindow_carry (v : Word) (s : State) : (setWindow v s).carry = s.carry := rfl
@[simp] theorem setWindow_bound (v : Word) (s : State) : (setWindow v s).bound = s.bound := rfl
@[simp] theorem setWindow_err (v : Word) (s : State) : (setWindow v s).err = s.err := rfl
@[simp] theorem setWindow_count (v : Word) (s : State) : (setWindow v s).count = s.count := rfl
@[simp] theorem setWindow_window (v : Word) (s : State) : (setWindow v s).window = v := rfl
@[simp] theorem setWindow_len (v : Word) (s : State) : (setWindow v s).len = s.len := rfl
@[simp] theorem setWindow_maxLen (v : Word) (s : State) : (setWindow v s).maxLen = s.maxLen := rfl
@[simp] theorem setWindow_buf (v : Word) (s : State) : (setWindow v s).buf = s.buf := rfl
@[simp] theorem setWindow_latch (v : Word) (s : State) : (setWindow v s).latch = s.latch := rfl
@[simp] theorem setWindow_resets (v : Word) (s : State) : (setWindow v s).resets = s.resets := rfl
@[simp] theorem setWindow_pending (v : Word) (s : State) : (setWindow v s).pending = s.pending := rfl
@[simp] theorem setWindow_schedule (v : Word) (s : State) : (setWindow v s).schedule = s.schedule := rfl
@[simp] theorem setWindow_responses (v : Word) (s : State) : (setWindow v s).responses = s.responses := rfl

/-! ## bindLen -/

@[simp] theorem bindLen_busy (v : BitVec 13) (s : State) : (bindLen v s).busy = s.busy := rfl
@[simp] theorem bindLen_carry (v : BitVec 13) (s : State) : (bindLen v s).carry = s.carry := rfl
@[simp] theorem bindLen_bound (v : BitVec 13) (s : State) : (bindLen v s).bound = true := rfl
@[simp] theorem bindLen_err (v : BitVec 13) (s : State) : (bindLen v s).err = s.err := rfl
@[simp] theorem bindLen_count (v : BitVec 13) (s : State) : (bindLen v s).count = s.count := rfl
@[simp] theorem bindLen_window (v : BitVec 13) (s : State) : (bindLen v s).window = s.window := rfl
@[simp] theorem bindLen_len (v : BitVec 13) (s : State) : (bindLen v s).len = v := rfl
@[simp] theorem bindLen_maxLen (v : BitVec 13) (s : State) : (bindLen v s).maxLen = s.maxLen := rfl
@[simp] theorem bindLen_buf (v : BitVec 13) (s : State) : (bindLen v s).buf = s.buf := rfl
@[simp] theorem bindLen_latch (v : BitVec 13) (s : State) : (bindLen v s).latch = s.latch := rfl
@[simp] theorem bindLen_resets (v : BitVec 13) (s : State) : (bindLen v s).resets = s.resets := rfl
@[simp] theorem bindLen_pending (v : BitVec 13) (s : State) : (bindLen v s).pending = s.pending := rfl
@[simp] theorem bindLen_schedule (v : BitVec 13) (s : State) : (bindLen v s).schedule = s.schedule := rfl
@[simp] theorem bindLen_responses (v : BitVec 13) (s : State) : (bindLen v s).responses = s.responses := rfl

/-! ## unbind -/

@[simp] theorem unbind_busy (s : State) : (unbind s).busy = s.busy := rfl
@[simp] theorem unbind_carry (s : State) : (unbind s).carry = s.carry := rfl
@[simp] theorem unbind_bound (s : State) : (unbind s).bound = false := rfl
@[simp] theorem unbind_err (s : State) : (unbind s).err = s.err := rfl
@[simp] theorem unbind_count (s : State) : (unbind s).count = s.count := rfl
@[simp] theorem unbind_window (s : State) : (unbind s).window = s.window := rfl
@[simp] theorem unbind_len (s : State) : (unbind s).len = s.len := rfl
@[simp] theorem unbind_maxLen (s : State) : (unbind s).maxLen = s.maxLen := rfl
@[simp] theorem unbind_buf (s : State) : (unbind s).buf = s.buf := rfl
@[simp] theorem unbind_latch (s : State) : (unbind s).latch = s.latch := rfl
@[simp] theorem unbind_resets (s : State) : (unbind s).resets = s.resets := rfl
@[simp] theorem unbind_pending (s : State) : (unbind s).pending = s.pending := rfl
@[simp] theorem unbind_schedule (s : State) : (unbind s).schedule = s.schedule := rfl
@[simp] theorem unbind_responses (s : State) : (unbind s).responses = s.responses := rfl

/-! ## setBufByte -/

@[simp] theorem setBufByte_busy (i : Nat) (b : Byte) (s : State) : (setBufByte i b s).busy = s.busy := rfl
@[simp] theorem setBufByte_carry (i : Nat) (b : Byte) (s : State) : (setBufByte i b s).carry = s.carry := rfl
@[simp] theorem setBufByte_bound (i : Nat) (b : Byte) (s : State) : (setBufByte i b s).bound = s.bound := rfl
@[simp] theorem setBufByte_err (i : Nat) (b : Byte) (s : State) : (setBufByte i b s).err = s.err := rfl
@[simp] theorem setBufByte_count (i : Nat) (b : Byte) (s : State) : (setBufByte i b s).count = s.count := rfl
@[simp] theorem setBufByte_window (i : Nat) (b : Byte) (s : State) : (setBufByte i b s).window = s.window := rfl
@[simp] theorem setBufByte_len (i : Nat) (b : Byte) (s : State) : (setBufByte i b s).len = s.len := rfl
@[simp] theorem setBufByte_maxLen (i : Nat) (b : Byte) (s : State) : (setBufByte i b s).maxLen = s.maxLen := rfl
@[simp] theorem setBufByte_buf (i : Nat) (b : Byte) (s : State) : (setBufByte i b s).buf = writeCell i b s.buf := rfl
@[simp] theorem setBufByte_latch (i : Nat) (b : Byte) (s : State) : (setBufByte i b s).latch = s.latch := rfl
@[simp] theorem setBufByte_resets (i : Nat) (b : Byte) (s : State) : (setBufByte i b s).resets = s.resets := rfl
@[simp] theorem setBufByte_pending (i : Nat) (b : Byte) (s : State) : (setBufByte i b s).pending = s.pending := rfl
@[simp] theorem setBufByte_schedule (i : Nat) (b : Byte) (s : State) : (setBufByte i b s).schedule = s.schedule := rfl
@[simp] theorem setBufByte_responses (i : Nat) (b : Byte) (s : State) : (setBufByte i b s).responses = s.responses := rfl

/-! ## storeBits -/

@[simp] theorem storeBits_busy (n : Nat) (S : Bits) (s : State) : (storeBits n S s).busy = s.busy := rfl
@[simp] theorem storeBits_carry (n : Nat) (S : Bits) (s : State) : (storeBits n S s).carry = s.carry := rfl
@[simp] theorem storeBits_bound (n : Nat) (S : Bits) (s : State) : (storeBits n S s).bound = s.bound := rfl
@[simp] theorem storeBits_err (n : Nat) (S : Bits) (s : State) : (storeBits n S s).err = s.err := rfl
@[simp] theorem storeBits_count (n : Nat) (S : Bits) (s : State) : (storeBits n S s).count = s.count := rfl
@[simp] theorem storeBits_window (n : Nat) (S : Bits) (s : State) : (storeBits n S s).window = s.window := rfl
@[simp] theorem storeBits_len (n : Nat) (S : Bits) (s : State) : (storeBits n S s).len = s.len := rfl
@[simp] theorem storeBits_maxLen (n : Nat) (S : Bits) (s : State) : (storeBits n S s).maxLen = s.maxLen := rfl
@[simp] theorem storeBits_buf (n : Nat) (S : Bits) (s : State) : (storeBits n S s).buf = writeCells (byteOfBits S) n s.buf := rfl
@[simp] theorem storeBits_latch (n : Nat) (S : Bits) (s : State) : (storeBits n S s).latch = s.latch := rfl
@[simp] theorem storeBits_resets (n : Nat) (S : Bits) (s : State) : (storeBits n S s).resets = s.resets := rfl
@[simp] theorem storeBits_pending (n : Nat) (S : Bits) (s : State) : (storeBits n S s).pending = s.pending := rfl
@[simp] theorem storeBits_schedule (n : Nat) (S : Bits) (s : State) : (storeBits n S s).schedule = s.schedule := rfl
@[simp] theorem storeBits_responses (n : Nat) (S : Bits) (s : State) : (storeBits n S s).responses = s.responses := rfl

/-! ## setCarry -/

@[simp] theorem setCarry_busy (c : Bool) (s : State) : (setCarry c s).busy = s.busy := rfl
@[simp] theorem setCarry_carry (c : Bool) (s : State) : (setCarry c s).carry = c := rfl
@[simp] theorem setCarry_bound (c : Bool) (s : State) : (setCarry c s).bound = s.bound := rfl
@[simp] theorem setCarry_err (c : Bool) (s : State) : (setCarry c s).err = s.err := rfl
@[simp] theorem setCarry_count (c : Bool) (s : State) : (setCarry c s).count = s.count := rfl
@[simp] theorem setCarry_window (c : Bool) (s : State) : (setCarry c s).window = s.window := rfl
@[simp] theorem setCarry_len (c : Bool) (s : State) : (setCarry c s).len = s.len := rfl
@[simp] theorem setCarry_maxLen (c : Bool) (s : State) : (setCarry c s).maxLen = s.maxLen := rfl
@[simp] theorem setCarry_buf (c : Bool) (s : State) : (setCarry c s).buf = s.buf := rfl
@[simp] theorem setCarry_latch (c : Bool) (s : State) : (setCarry c s).latch = s.latch := rfl
@[simp] theorem setCarry_resets (c : Bool) (s : State) : (setCarry c s).resets = s.resets := rfl
@[simp] theorem setCarry_pending (c : Bool) (s : State) : (setCarry c s).pending = s.pending := rfl
@[simp] theorem setCarry_schedule (c : Bool) (s : State) : (setCarry c s).schedule = s.schedule := rfl
@[simp] theorem setCarry_responses (c : Bool) (s : State) : (setCarry c s).responses = s.responses := rfl

/-! ## clearBusy -/

@[simp] theorem clearBusy_busy (s : State) : (clearBusy s).busy = false := rfl
@[simp] theorem clearBusy_carry (s : State) : (clearBusy s).carry = s.carry := rfl
@[simp] theorem clearBusy_bound (s : State) : (clearBusy s).bound = s.bound := rfl
@[simp] theorem clearBusy_err (s : State) : (clearBusy s).err = s.err := rfl
@[simp] theorem clearBusy_count (s : State) : (clearBusy s).count = s.count := rfl
@[simp] theorem clearBusy_window (s : State) : (clearBusy s).window = s.window := rfl
@[simp] theorem clearBusy_len (s : State) : (clearBusy s).len = s.len := rfl
@[simp] theorem clearBusy_maxLen (s : State) : (clearBusy s).maxLen = s.maxLen := rfl
@[simp] theorem clearBusy_buf (s : State) : (clearBusy s).buf = s.buf := rfl
@[simp] theorem clearBusy_latch (s : State) : (clearBusy s).latch = s.latch := rfl
@[simp] theorem clearBusy_resets (s : State) : (clearBusy s).resets = s.resets := rfl
@[simp] theorem clearBusy_pending (s : State) : (clearBusy s).pending = s.pending := rfl
@[simp] theorem clearBusy_schedule (s : State) : (clearBusy s).schedule = s.schedule := rfl
@[simp] theorem clearBusy_responses (s : State) : (clearBusy s).responses = s.responses := rfl

/-! ## respond -/

@[simp] theorem respond_busy (r : Response) (s : State) : (respond r s).busy = s.busy := rfl
@[simp] theorem respond_carry (r : Response) (s : State) : (respond r s).carry = s.carry := rfl
@[simp] theorem respond_bound (r : Response) (s : State) : (respond r s).bound = s.bound := rfl
@[simp] theorem respond_err (r : Response) (s : State) : (respond r s).err = s.err := rfl
@[simp] theorem respond_count (r : Response) (s : State) : (respond r s).count = s.count := rfl
@[simp] theorem respond_window (r : Response) (s : State) : (respond r s).window = s.window := rfl
@[simp] theorem respond_len (r : Response) (s : State) : (respond r s).len = s.len := rfl
@[simp] theorem respond_maxLen (r : Response) (s : State) : (respond r s).maxLen = s.maxLen := rfl
@[simp] theorem respond_buf (r : Response) (s : State) : (respond r s).buf = s.buf := rfl
@[simp] theorem respond_latch (r : Response) (s : State) : (respond r s).latch = s.latch := rfl
@[simp] theorem respond_resets (r : Response) (s : State) : (respond r s).resets = s.resets := rfl
@[simp] theorem respond_pending (r : Response) (s : State) : (respond r s).pending = s.pending := rfl
@[simp] theorem respond_schedule (r : Response) (s : State) : (respond r s).schedule = s.schedule := rfl
@[simp] theorem respond_responses (r : Response) (s : State) : (respond r s).responses = r :: s.responses := rfl

/-! ## popPending -/

@[simp] theorem popPending_busy (s : State) : (popPending s).busy = s.busy := rfl
@[simp] theorem popPending_carry (s : State) : (popPending s).carry = s.carry := rfl
@[simp] theorem popPending_bound (s : State) : (popPending s).bound = s.bound := rfl
@[simp] theorem popPending_err (s : State) : (popPending s).err = s.err := rfl
@[simp] theorem popPending_count (s : State) : (popPending s).count = s.count := rfl
@[simp] theorem popPending_window (s : State) : (popPending s).window = s.window := rfl
@[simp] theorem popPending_len (s : State) : (popPending s).len = s.len := rfl
@[simp] theorem popPending_maxLen (s : State) : (popPending s).maxLen = s.maxLen := rfl
@[simp] theorem popPending_buf (s : State) : (popPending s).buf = s.buf := rfl
@[simp] theorem popPending_latch (s : State) : (popPending s).latch = s.latch := rfl
@[simp] theorem popPending_resets (s : State) : (popPending s).resets = s.resets := rfl
@[simp] theorem popPending_pending (s : State) : (popPending s).pending = s.pending.tail := rfl
@[simp] theorem popPending_schedule (s : State) : (popPending s).schedule = s.schedule := rfl
@[simp] theorem popPending_responses (s : State) : (popPending s).responses = s.responses := rfl

/-! ## popSchedule -/

@[simp] theorem popSchedule_busy (s : State) : (popSchedule s).busy = s.busy := rfl
@[simp] theorem popSchedule_carry (s : State) : (popSchedule s).carry = s.carry := rfl
@[simp] theorem popSchedule_bound (s : State) : (popSchedule s).bound = s.bound := rfl
@[simp] theorem popSchedule_err (s : State) : (popSchedule s).err = s.err := rfl
@[simp] theorem popSchedule_count (s : State) : (popSchedule s).count = s.count := rfl
@[simp] theorem popSchedule_window (s : State) : (popSchedule s).window = s.window := rfl
@[simp] theorem popSchedule_len (s : State) : (popSchedule s).len = s.len := rfl
@[simp] theorem popSchedule_maxLen (s : State) : (popSchedule s).maxLen = s.maxLen := rfl
@[simp] theorem popSchedule_buf (s : State) : (popSchedule s).buf = s.buf := rfl
@[simp] theorem popSchedule_latch (s : State) : (popSchedule s).latch = s.latch := rfl
@[simp] theorem popSchedule_resets (s : State) : (popSchedule s).resets = s.resets := rfl
@[simp] theorem popSchedule_pending (s : State) : (popSchedule s).pending = s.pending := rfl
@[simp] theorem popSchedule_schedule (s : State) : (popSchedule s).schedule = s.schedule.tail := rfl
@[simp] theorem popSchedule_responses (s : State) : (popSchedule s).responses = s.responses := rfl

/-! ## raiseCmdError -/

@[simp] theorem raiseCmdError_busy (e : CmdErr) (s : State) : (raiseCmdError e s).busy = s.busy := rfl
@[simp] theorem raiseCmdError_carry (e : CmdErr) (s : State) : (raiseCmdError e s).carry = s.carry := rfl
@[simp] theorem raiseCmdError_bound (e : CmdErr) (s : State) : (raiseCmdError e s).bound = s.bound := rfl
@[simp] theorem raiseCmdError_err (e : CmdErr) (s : State) : (raiseCmdError e s).err = e := rfl
@[simp] theorem raiseCmdError_count (e : CmdErr) (s : State) : (raiseCmdError e s).count = s.count := rfl
@[simp] theorem raiseCmdError_window (e : CmdErr) (s : State) : (raiseCmdError e s).window = s.window := rfl
@[simp] theorem raiseCmdError_len (e : CmdErr) (s : State) : (raiseCmdError e s).len = s.len := rfl
@[simp] theorem raiseCmdError_maxLen (e : CmdErr) (s : State) : (raiseCmdError e s).maxLen = s.maxLen := rfl
@[simp] theorem raiseCmdError_buf (e : CmdErr) (s : State) : (raiseCmdError e s).buf = s.buf := rfl
@[simp] theorem raiseCmdError_latch (e : CmdErr) (s : State) : (raiseCmdError e s).latch = s.latch := rfl
@[simp] theorem raiseCmdError_resets (e : CmdErr) (s : State) : (raiseCmdError e s).resets = s.resets := rfl
@[simp] theorem raiseCmdError_pending (e : CmdErr) (s : State) : (raiseCmdError e s).pending = s.pending := rfl
@[simp] theorem raiseCmdError_schedule (e : CmdErr) (s : State) : (raiseCmdError e s).schedule = s.schedule := rfl
@[simp] theorem raiseCmdError_responses (e : CmdErr) (s : State) : (raiseCmdError e s).responses = s.responses := rfl

/-! ## latchCommand -/

@[simp] theorem latchCommand_busy (l : Latch) (s : State) : (latchCommand l s).busy = true := rfl
@[simp] theorem latchCommand_carry (l : Latch) (s : State) : (latchCommand l s).carry = s.carry := rfl
@[simp] theorem latchCommand_bound (l : Latch) (s : State) : (latchCommand l s).bound = s.bound := rfl
@[simp] theorem latchCommand_err (l : Latch) (s : State) : (latchCommand l s).err = .none := rfl
@[simp] theorem latchCommand_count (l : Latch) (s : State) : (latchCommand l s).count = s.count := rfl
@[simp] theorem latchCommand_window (l : Latch) (s : State) : (latchCommand l s).window = s.window := rfl
@[simp] theorem latchCommand_len (l : Latch) (s : State) : (latchCommand l s).len = s.len := rfl
@[simp] theorem latchCommand_maxLen (l : Latch) (s : State) : (latchCommand l s).maxLen = s.maxLen := rfl
@[simp] theorem latchCommand_buf (l : Latch) (s : State) : (latchCommand l s).buf = s.buf := rfl
@[simp] theorem latchCommand_latch (l : Latch) (s : State) : (latchCommand l s).latch = l := rfl
@[simp] theorem latchCommand_resets (l : Latch) (s : State) : (latchCommand l s).resets = s.resets := rfl
@[simp] theorem latchCommand_pending (l : Latch) (s : State) : (latchCommand l s).pending = s.pending := rfl
@[simp] theorem latchCommand_schedule (l : Latch) (s : State) : (latchCommand l s).schedule = s.schedule := rfl
@[simp] theorem latchCommand_responses (l : Latch) (s : State) : (latchCommand l s).responses = s.responses := rfl

/-! ## takeReset -/

@[simp] theorem takeReset_busy (s : State) : (takeReset s).busy = false := rfl
@[simp] theorem takeReset_carry (s : State) : (takeReset s).carry = false := rfl
@[simp] theorem takeReset_bound (s : State) : (takeReset s).bound = false := rfl
@[simp] theorem takeReset_err (s : State) : (takeReset s).err = .none := rfl
@[simp] theorem takeReset_count (s : State) : (takeReset s).count = 0#32 := rfl
@[simp] theorem takeReset_window (s : State) : (takeReset s).window = 0#32 := rfl
@[simp] theorem takeReset_len (s : State) : (takeReset s).len = 0#13 := rfl
@[simp] theorem takeReset_maxLen (s : State) : (takeReset s).maxLen = s.maxLen := rfl
@[simp] theorem takeReset_buf (s : State) : (takeReset s).buf = [] := rfl
@[simp] theorem takeReset_latch (s : State) : (takeReset s).latch = latchDraw (s.resets + 1) := rfl
@[simp] theorem takeReset_resets (s : State) : (takeReset s).resets = s.resets + 1 := rfl
@[simp] theorem takeReset_pending (s : State) : (takeReset s).pending = s.pending := rfl
@[simp] theorem takeReset_schedule (s : State) : (takeReset s).schedule = s.schedule := rfl
@[simp] theorem takeReset_responses (s : State) : (takeReset s).responses = s.responses := rfl

end Sys2Proof.Machine
end

