-- ==== Sys2Proof/Laws/Ops.lean ====
section
/-!
SUPPORT. What each shared operation can do, once: BUF after a store, the checks on a command's operands, and the one inversion lemma of `exec`.
-/

namespace Sys2Proof.Machine

/-! ## BUF, by bytes and by bits -/

/-- BUF reads only the stored bytes and the number of the last reset. -/
theorem bufByte_congr (s t : State) (hb : s.buf = t.buf) (hr : s.resets = t.resets) (i : Nat) :
    bufByte s i = bufByte t i := by simp [bufByte, hb, hr]

theorem bitAt_congr (s t : State) (hb : s.buf = t.buf) (hr : s.resets = t.resets) (k : Nat) :
    bitAt s k = bitAt t k := by simp [bitAt, bufByte_congr s t hb hr]

theorem activeBits_congr (s t : State) (hb : s.buf = t.buf) (hr : s.resets = t.resets) (n : Nat) :
    activeBits n s = activeBits n t := by
  simp only [activeBits]
  exact List.map_congr_left (fun k _ => bitAt_congr s t hb hr k)

/-- Bit 7 - j of BUF[i] is position 8 i + j. -/
theorem bufByte_getMsbD (s : State) (i j : Nat) (hj : j < 8) : (bufByte s i).getMsbD j = bitAt s (8 * i + j) := by
  have h1 : (8 * i + j) / 8 = i := by omega
  have h2 : (8 * i + j) % 8 = j := by omega
  simp [bitAt, h1, h2]

/-- A byte is fixed by its eight positions. -/
theorem bufByte_eq_of_bits (s t : State) (i : Nat) (h : ∀ j < 8, bitAt s (8 * i + j) = bitAt t (8 * i + j)) :
    bufByte s i = bufByte t i :=
  byte_ext _ _ (fun j hj => by rw [bufByte_getMsbD s i j hj, bufByte_getMsbD t i j hj, h j hj])

@[simp] theorem activeBits_length (n : Nat) (s : State) : (activeBits n s).length = 8 * n := by simp [activeBits]

/-- Position k of the bit string of the first n bytes. -/
theorem activeBits_getD (n : Nat) (s : State) (k : Nat) (h : k < 8 * n) : (activeBits n s).getD k false = bitAt s k := by
  simp [activeBits, List.getD_eq_getElem?_getD, h]

/-- BUF after a store of n bytes: the packed bytes below n, the old bytes from n on. -/
theorem bufByte_storeBits (n : Nat) (S : Bits) (s : State) (i : Nat) :
    bufByte (storeBits n S s) i = if i < n then byteOfBits S i else bufByte s i := by
  simp only [bufByte, storeBits_buf, storeBits_resets, readCell?_writeCells]
  split <;> rfl

/-- The stored positions after a store. -/
theorem bitAt_storeBits (n : Nat) (S : Bits) (s : State) (k : Nat) (h : k < 8 * n) :
    bitAt (storeBits n S s) k = S.getD k false := by
  have h1 : k / 8 < n := by omega
  have h2 : 8 * (k / 8) + k % 8 = k := by omega
  rw [bitAt, bufByte_storeBits, if_pos h1, byteOfBits_getMsbD _ _ _ (by omega), h2]

/-- BUF after a write of one byte. -/
theorem bufByte_setBufByte (i : Nat) (b : Byte) (s : State) (j : Nat) :
    bufByte (setBufByte i b s) j = if j = i then b else bufByte s j := by
  simp only [bufByte, setBufByte_buf, setBufByte_resets, readCell?_writeCell]
  split <;> rfl

/-- Reading the stored string back. -/
theorem activeBits_storeBits (n : Nat) (S : Bits) (s : State) (h : S.length = 8 * n) :
    activeBits n (storeBits n S s) = S := by
  apply List.ext_getElem (by simp [h])
  intro k h1 h2
  have hk : k < 8 * n := by simpa using h1
  have e := activeBits_getD n (storeBits n S s) k hk
  rw [bitAt_storeBits n S s k hk] at e
  simpa [List.getD_eq_getElem?_getD, List.getElem?_eq_getElem h1, List.getElem?_eq_getElem h2] using e

/-! BUF is untouched by the updates of other fields. -/

@[simp] theorem bufByte_setCarry (c : Bool) (s : State) (i : Nat) : bufByte (setCarry c s) i = bufByte s i := rfl

@[simp] theorem bufByte_clearBusy (s : State) (i : Nat) : bufByte (clearBusy s) i = bufByte s i := rfl

@[simp] theorem bufByte_raiseCmdError (e : CmdErr) (s : State) (i : Nat) : bufByte (raiseCmdError e s) i = bufByte s i := rfl

@[simp] theorem bufByte_latchCommand (l : Latch) (s : State) (i : Nat) : bufByte (latchCommand l s) i = bufByte s i := rfl

@[simp] theorem bufByte_respond (r : Response) (s : State) (i : Nat) : bufByte (respond r s) i = bufByte s i := rfl

@[simp] theorem bufByte_popPending (s : State) (i : Nat) : bufByte (popPending s) i = bufByte s i := rfl

@[simp] theorem bufByte_popSchedule (s : State) (i : Nat) : bufByte (popSchedule s) i = bufByte s i := rfl

@[simp] theorem bitAt_setCarry (c : Bool) (s : State) (k : Nat) : bitAt (setCarry c s) k = bitAt s k := rfl

@[simp] theorem bitAt_clearBusy (s : State) (k : Nat) : bitAt (clearBusy s) k = bitAt s k := rfl

@[simp] theorem bitAt_raiseCmdError (e : CmdErr) (s : State) (k : Nat) : bitAt (raiseCmdError e s) k = bitAt s k := rfl

@[simp] theorem bitAt_latchCommand (l : Latch) (s : State) (k : Nat) : bitAt (latchCommand l s) k = bitAt s k := rfl

/-! ## Acceptance -/

/-- When a command passes every check on its operands (60_exceptions.md R202). -/
theorem operandError_eq_none_iff (i : Instr) (s : State) :
    operandError i s = none ↔
      s.bound = true ∧ (readsCount i = true → 0 ≤ signed32 s.count) ∧
      (readsWindow i = true → 0 ≤ signed32 s.window ∧ signed32 s.window ≤ (bitLength s : Int)) := by
  unfold operandError
  cases hb : s.bound <;> cases hc : readsCount i <;> cases hw : readsWindow i <;> simp
  all_goals try split
  all_goals try split
  all_goals simp_all
  all_goals omega

/-- The checks read only BOUND, COUNT, WINDOW and LEN. -/
theorem operandError_congr (i : Instr) (s t : State) (hb : s.bound = t.bound) (hc : s.count = t.count)
    (hw : s.window = t.window) (hl : s.len = t.len) : operandError i s = operandError i t := by
  simp [operandError, bitLength, hb, hc, hw, hl]

/-- The latch an acceptance writes depends only on COUNT, WINDOW and LEN. -/
theorem acceptedLatch_congr (i : Instr) (s t : State) (hc : s.count = t.count) (hw : s.window = t.window)
    (hl : s.len = t.len) : acceptedLatch i s = acceptedLatch i t := by
  simp [acceptedLatch, windowInEffect, bitLength, hc, hw, hl]

/-- What an acceptance can do: raise one error, or latch the command. -/
theorem acceptCommand_cases (i : Instr) (s : State) :
    (∃ e, operandError i s = some e ∧ e ≠ .none ∧ acceptCommand i s = raiseCmdError e s) ∨
    (operandError i s = none ∧ acceptCommand i s = latchCommand (acceptedLatch i s) s) := by
  cases h : operandError i s with
  | none => exact .inr ⟨rfl, by simp [acceptCommand, h]⟩
  | some e =>
    refine .inl ⟨e, rfl, ?_, by simp [acceptCommand, h]⟩
    rintro rfl
    unfold operandError at h
    split at h
    · simp at h
    · split at h
      · simp at h
      · split at h <;> simp at h

/-! ## exec -/

/-- A command meets an idle block: acceptance. -/
theorem exec_idle (i : Instr) (s : State) (h : s.busy = false) : exec i s = .next (acceptCommand i s) := by
  cases i <;>
    simp [exec, execShl, execShr, execRol, execRor, execRolw, execRorw, commandCycle, h]

/-- Another command is in flight: no effect. -/
theorem exec_other (i : Instr) (s : State) (h : s.busy = true) (hi : s.latch.opl ≠ i) : exec i s = .next s := by
  cases i <;>
    simp_all [exec, execShl, execShr, execRol, execRor, execRolw, execRorw, commandCycle]

/-- The one-bit step of a rotation in flight: full-buffer or windowed. -/
def rotationStep (i : Instr) (w : Nat) : Bits → Bits :=
  match i with
  | .shl => id
  | .shr => id
  | .rol => rol1
  | .ror => ror1
  | .rolw => rolw1 w
  | .rorw => rorw1 w

theorem rotationStep_length (i : Instr) (w : Nat) (S : Bits) : (rotationStep i w S).length = S.length := by
  cases i <;> simp [rotationStep]

/-- A rotation in flight: completion. -/
theorem exec_rotation (i : Instr) (s : State) (h : s.busy = true) (hi : s.latch.opl = i) (hr : readsCount i = true) :
    exec i s = .next (completeRotation (rotationStep i s.latch.wl) s) := by
  cases i <;> simp [readsCount] at hr <;>
    simp [exec, execRol, execRor, execRolw, execRorw, commandCycle, h, hi, rotationStep]

/-- A left shift in flight: completion. -/
theorem exec_shl (s : State) (h : s.busy = true) (hi : s.latch.opl = .shl) :
    exec .shl s = .next (completeShift shl1 s) := by simp [exec, execShl, commandCycle, h, hi]

/-- A right shift in flight: completion. -/
theorem exec_shr (s : State) (h : s.busy = true) (hi : s.latch.opl = .shr) :
    exec .shr s = .next (completeShift shr1 s) := by simp [exec, execShr, commandCycle, h, hi]

/-- Everything `exec` can do: acceptance, nothing, or a completion that stores one string of the latched length, may write the carry
(a shift only) and clears BUSY. -/
theorem exec_cases (i : Instr) (s : State) :
    (s.busy = false ∧ exec i s = .next (acceptCommand i s)) ∨
    (s.busy = true ∧ s.latch.opl ≠ i ∧ exec i s = .next s) ∨
    (s.busy = true ∧ s.latch.opl = i ∧ ∃ S c, S.length = 8 * s.latch.lenl ∧ (readsCount i = true → c = s.carry) ∧
      exec i s = .next (clearBusy (setCarry c (storeBits s.latch.lenl S s)))) := by
  cases h : s.busy with
  | false => exact .inl ⟨rfl, exec_idle i s h⟩
  | true =>
    by_cases hi : s.latch.opl = i
    · refine .inr (.inr ⟨rfl, hi, ?_⟩)
      cases hr : readsCount i with
      | true =>
        exact ⟨Nat.iterate (rotationStep i s.latch.wl) s.latch.kl (activeBits s.latch.lenl s), s.carry,
          by rw [iterate_length _ (rotationStep_length i s.latch.wl), activeBits_length], fun _ => rfl,
          by rw [exec_rotation i s h hi hr]; rfl⟩
      | false =>
        cases i <;> simp [readsCount] at hr
        · exact ⟨_, _, by rw [shl1_length, activeBits_length], by simp, exec_shl s h hi⟩
        · exact ⟨_, _, by rw [shr1_length, activeBits_length], by simp, exec_shr s h hi⟩
    · exact .inr (.inl ⟨rfl, hi, exec_other i s h hi⟩)

@[simp] theorem mapNext_next (f : State → State) (s : State) : mapNext f (.next s) = .next (f s) := rfl

end Sys2Proof.Machine
end

