-- ==== Sys2Proof/Laws/Bus.lean ====
section
/-!
SUPPORT. What the bus and the step can do, once: the writes of BUF words by byte, the inversion lemmas of a read and of a write, and of `step`.
-/

namespace Sys2Proof.Machine

/-! ## BUF words -/

/-- BUF after one lane of a 4-byte write. -/
theorem bufByte_writeLane (i : Nat) (b : Byte) (s : State) (j : Nat) :
    bufByte (writeLane i b s) j = if j = i ∧ i < s.maxLen.toNat then b else bufByte s j := by
  unfold writeLane
  by_cases h : i < s.maxLen.toNat <;> simp [h, bufByte_setBufByte]

/-- A lane write changes BUF alone. -/
theorem writeLane_frame (i : Nat) (b : Byte) (s : State) : writeLane i b s = { s with buf := (writeLane i b s).buf } := by
  unfold writeLane; split <;> rfl

@[simp] theorem writeLane_maxLen (i : Nat) (b : Byte) (s : State) : (writeLane i b s).maxLen = s.maxLen := by
  rw [writeLane_frame]

/-- A 4-byte write changes BUF alone. -/
theorem writeBufWord_frame (i : Nat) (v : Word) (s : State) :
    writeBufWord i v s = { s with buf := (writeBufWord i v s).buf } := by
  unfold writeBufWord
  rw [writeLane_frame (i + 3), writeLane_frame (i + 2), writeLane_frame (i + 1), writeLane_frame i]

/-- A lane write keeps BUF's canonical form and its bounds. -/
theorem writeLane_buf_wf (i : Nat) (b : Byte) (s : State) (h : memoryWf s.buf)
    (hb : ∀ c ∈ s.buf, c.1 < s.maxLen.toNat) :
    memoryWf (writeLane i b s).buf ∧ ∀ c ∈ (writeLane i b s).buf, c.1 < s.maxLen.toNat := by
  unfold writeLane
  split
  · rename_i hi
    refine ⟨memoryWf_writeCell _ _ _ h, fun c hc => ?_⟩
    rcases mem_writeCell _ _ _ _ hc with hc | hc
    · omega
    · exact hb c hc
  · exact ⟨h, hb⟩

/-- A 4-byte write keeps BUF's canonical form and its bounds. -/
theorem writeBufWord_buf_wf (i : Nat) (v : Word) (s : State) (h : memoryWf s.buf)
    (hb : ∀ c ∈ s.buf, c.1 < s.maxLen.toNat) :
    memoryWf (writeBufWord i v s).buf ∧ ∀ c ∈ (writeBufWord i v s).buf, c.1 < s.maxLen.toNat := by
  unfold writeBufWord
  have h0 := writeLane_buf_wf i (v.extractLsb' 24 8) s h hb
  have h1 := writeLane_buf_wf (i + 1) (v.extractLsb' 16 8) _ h0.1 (by simpa using h0.2)
  have h2 := writeLane_buf_wf (i + 2) (v.extractLsb' 8 8) _ h1.1 (by simpa using h1.2)
  have h3 := writeLane_buf_wf (i + 3) (v.extractLsb' 0 8) _ h2.1 (by simpa using h2.2)
  simpa using h3

/-! ## What a transaction reaches -/

/-- Everything a transaction can reach. -/
theorem target_cases (s : State) (off : Offset) (n : Nat) :
    target s off n = .nothing ∨
    (∃ i, target s off n = .bufByte i ∧ n = 1 ∧ off.toNat = 0x1000 + i ∧ i < s.maxLen.toNat) ∨
    (∃ i, target s off n = .bufWord i ∧ n = 4 ∧ off.toNat = 0x1000 + i ∧ i < s.maxLen.toNat ∧ i % 4 = 0) ∨
    (∃ r, target s off n = .reg r ∧ n = 4 ∧ off = registerOffset r) := by
  have hreg : ∀ r, registerAt off.toNat = some r → off = registerOffset r := by
    intro r hr
    apply BitVec.eq_of_toNat_eq
    unfold registerAt at hr
    split at hr
    · cases hr; simpa using ‹off.toNat = _›
    · split at hr
      · cases hr; simpa using ‹off.toNat = _›
      · split at hr
        · cases hr; simpa using ‹off.toNat = _›
        · split at hr
          · cases hr; simpa using ‹off.toNat = _›
          · split at hr
            · cases hr; simpa using ‹off.toNat = _›
            · split at hr
              · cases hr; simpa using ‹off.toNat = _›
              · split at hr
                · cases hr; simpa using ‹off.toNat = _›
                · cases hr
  unfold target
  by_cases hb : inBuf s off.toNat = true
  · have hb' : bufBase ≤ off.toNat ∧ off.toNat - bufBase < s.maxLen.toNat := by simpa [inBuf] using hb
    have e : off.toNat = 0x1000 + (off.toNat - bufBase) := by have := hb'.1; simp only [bufBase] at *; omega
    by_cases h1 : n = 1
    · subst h1
      exact .inr (.inl ⟨_, by simp [hb], rfl, e, hb'.2⟩)
    · by_cases h4 : n = 4
      · subst h4
        by_cases hm : (off.toNat - bufBase) % 4 = 0
        · exact .inr (.inr (.inl ⟨_, by simp [hb, hm], rfl, e, hb'.2, hm⟩))
        · exact .inl (by simp [hb, hm])
      · exact .inl (by simp [h1, h4])
  · by_cases h1 : n = 1
    · exact .inl (by simp [h1, hb])
    · by_cases h4 : n = 4
      · subst h4
        cases hr : registerAt off.toNat with
        | none => exact .inl (by simp [hb])
        | some r => exact .inr (.inr (.inr ⟨r, by simp [hb], rfl, hreg r hr⟩))
      · exact .inl (by simp [h1, h4])

/-! ## Writes and steps -/

/-- Everything a host write can do: be refused, be ignored, write COUNT, WINDOW, LEN or BUF, or present a word. -/
theorem busWrite_cases (off : Offset) (n : Nat) (v : Word) (s : State) :
    busWrite off n v s = .next (respond (.write .error) s) ∨
    ((off = registerOffset .status ∨ off = registerOffset .id ∨ off = registerOffset .cfg) ∧
      busWrite off n v s = .next (respond (.write .okay) s)) ∨
    (s.busy = false ∧ n = 4 ∧
      ((off = registerOffset .count ∧ busWrite off n v s = .next (respond (.write .okay) (setCount v s))) ∨
       (off = registerOffset .window ∧ busWrite off n v s = .next (respond (.write .okay) (setWindow v s))) ∨
       (off = registerOffset .len ∧ busWrite off n v s = .next (respond (.write .okay) (writeLen v s))) ∨
       (off = registerOffset .cmd ∧ busWrite off n v s = mapNext (respond (.write .okay)) (presentWord v s)) ∨
       (∃ i, off.toNat = 0x1000 + i ∧ i < s.maxLen.toNat ∧
        busWrite off n v s = .next (respond (.write .okay) (writeBufWord i v s))))) ∨
    (s.busy = false ∧ n = 1 ∧ ∃ i, off.toNat = 0x1000 + i ∧ i < s.maxLen.toNat ∧
      busWrite off n v s = .next (respond (.write .okay) (setBufByte i (v.setWidth 8) s))) := by
  unfold busWrite
  rcases target_cases s off n with ht | ⟨i, ht, h1, ho, hi⟩ | ⟨i, ht, h4, ho, hi, hm⟩ | ⟨r, ht, h4, ho⟩ <;> rw [ht]
  · exact .inl rfl
  · cases hb : s.busy with
    | true => exact .inl rfl
    | false => exact .inr (.inr (.inr ⟨rfl, h1, i, ho, hi, rfl⟩))
  · cases hb : s.busy with
    | true => exact .inl rfl
    | false => exact .inr (.inr (.inl ⟨rfl, h4, .inr (.inr (.inr (.inr ⟨i, ho, hi, rfl⟩)))⟩))
  · cases hb : s.busy <;> cases r <;> simp [refusedWhileBusy, writeRegister, refuseWrite, ho, h4]

/-- Every host read answers a response and nothing else. -/
theorem busRead_cases (off : Offset) (n : Nat) (s : State) :
    busRead off n s = .read .error (zeroData n) ∨ ∃ d, busRead off n s = .read .okay d := by
  unfold busRead
  split
  · exact .inr ⟨_, rfl⟩
  · split
    · exact .inl rfl
    · exact .inr ⟨_, rfl⟩
  · split
    · exact .inl rfl
    · exact .inr ⟨_, rfl⟩
  · exact .inl rfl

/-- A word presented to an idle block: ILLEGAL_COMMAND, or the acceptance of the command it selects. -/
theorem presentWord_idle (v : Word) (s : State) (h : s.busy = false) :
    (∃ why, decode v = .illegal why ∧ presentWord v s = .next (raiseCmdError .illegalCommand s)) ∨
    (∃ i, decode v = .command i ∧ presentWord v s = .next (acceptCommand i s)) := by
  unfold presentWord
  cases hd : decode v with
  | illegal why => exact .inl ⟨why, rfl, rfl⟩
  | command i => exact .inr ⟨i, rfl, exec_idle i s h⟩

/-- Everything a host's turn can do. -/
theorem hostMove_cases (s : State) :
    (s.pending = [] ∧ hostMove s = .next s) ∨
    (∃ off n rest, s.pending = .read off n :: rest ∧ hostMove s = .next (popPending (respond (busRead off n s) s))) ∨
    (∃ off n v rest, s.pending = .write off n v :: rest ∧ hostMove s = mapNext popPending (busWrite off n v s)) ∨
    (∃ rest, s.pending = .waitIdle :: rest ∧
      ((s.busy = true ∧ hostMove s = .next (respond (busRead statusOffset 4 s) s)) ∨
       (s.busy = false ∧ hostMove s = .next (popPending (respond (busRead statusOffset 4 s) s))))) := by
  unfold hostMove
  cases hp : s.pending with
  | nil => exact .inl ⟨rfl, rfl⟩
  | cons op rest =>
    cases op with
    | read off n => exact .inr (.inl ⟨off, n, rest, rfl, rfl⟩)
    | write off n v => exact .inr (.inr (.inl ⟨off, n, v, rest, rfl, rfl⟩))
    | waitIdle =>
      refine .inr (.inr (.inr ⟨rest, rfl, ?_⟩))
      cases hb : s.busy
      · exact .inr ⟨rfl, rfl⟩
      · exact .inl ⟨rfl, rfl⟩

/-- Everything a step can be: a reset, an engine turn, or a host turn. -/
theorem step_cases (s : State) :
    (nextAgent s = .platform ∧ step s = .next (popSchedule (takeReset s))) ∨
    (nextAgent s = .engine ∧ s.busy = true ∧ step s = mapNext popSchedule (exec s.latch.opl s)) ∨
    (nextAgent s = .engine ∧ s.busy = false ∧ step s = .next (popSchedule s)) ∨
    (nextAgent s = .host ∧ step s = mapNext popSchedule (hostMove s)) := by
  cases ha : nextAgent s with
  | platform => exact .inl ⟨rfl, by simp [step, move, ha]⟩
  | host => exact .inr (.inr (.inr ⟨rfl, by simp [step, move, ha]⟩))
  | engine =>
    cases hb : s.busy
    · exact .inr (.inr (.inl ⟨rfl, rfl, by simp [step, move, ha, engineMove, hb]⟩))
    · exact .inr (.inl ⟨rfl, rfl, by simp [step, move, ha, engineMove, hb]⟩)

/-! ## The step, by what the host does -/

/-- The pending list of a host that does something. -/
theorem pending_of_hostDoes (s : State) (op : HostOp) (h : hostDoes s op) : ∃ rest, s.pending = op :: rest := by
  have h2 := h.2
  cases hp : s.pending with
  | nil => simp [hp] at h2
  | cons a rest => exact ⟨rest, by simp [hp] at h2; rw [h2]⟩

/-- A host turn. -/
theorem step_of_host (s : State) (h : nextAgent s = .host) : step s = mapNext popSchedule (hostMove s) := by
  simp [step, move, h]

/-- A host read: its response, and nothing else. -/
theorem step_of_read (s : State) (off : Offset) (n : Nat) (h : hostDoes s (.read off n)) :
    step s = .next (hostDone (busRead off n s) s) := by
  obtain ⟨rest, hp⟩ := pending_of_hostDoes s _ h
  simp [step_of_host s h.1, hostMove, hp, hostDone]

/-- A host write: the bus write, then the operation is done. -/
theorem step_of_write (s : State) (off : Offset) (n : Nat) (v : Word) (h : hostDoes s (.write off n v)) :
    step s = mapNext (fun t => popSchedule (popPending t)) (busWrite off n v s) := by
  obtain ⟨rest, hp⟩ := pending_of_hostDoes s _ h
  simp only [step_of_host s h.1, hostMove, hp]
  cases busWrite off n v s <;> rfl

/-- A register's own offset reaches it. -/
theorem target_registerOffset (s : State) (r : Register) : target s (registerOffset r) 4 = .reg r := by
  cases r <;> simp [target, inBuf, registerOffset, bufBase, registerAt]

/-- A word presented to an idle block. -/
theorem step_of_presents (s : State) (v : Word) (h : presents s v) :
    step s = mapNext (hostDone (.write .okay)) (presentWord v s) := by
  have ht : target s cmdOffset 4 = .reg .cmd := target_registerOffset s .cmd
  rw [step_of_write s _ _ _ h.1]
  simp only [busWrite, ht, h.2, writeRegister]
  cases presentWord v s <;> rfl

/-- Running one step of the machine behind the host's interface. -/
theorem run_succ_of_step (k : Nat) (s t : State) (h : step s = .next t) :
    Host.Core.run Sys2Proof.core (k + 1) s = Host.Core.run Sys2Proof.core k t := by
  have h' : Sys2Proof.core.step s = .next t := h
  simp only [Host.Core.run, h']

end Sys2Proof.Machine
end

