-- ==== Sys2Proof/Laws/Decode.lean ====
section
/-!
SUPPORT. The command word is its three fields (30_encoding.md R80).
-/

namespace Sys2Proof

/-- A word is its RSV, MODE and DIR fields joined. -/
theorem word_eq_fields (v : Word) : v = rsvField v ++ modeField v ++ dirField v := by
  apply BitVec.eq_of_getLsbD_eq
  intro i hi
  have h : (rsvField v ++ modeField v ++ dirField v).getLsbD i =
      if i < 1 then v.getLsbD i else if i < 3 then v.getLsbD i else v.getLsbD i := by
    rw [BitVec.getLsbD_append, BitVec.getLsbD_append]
    split
    · simp [dirField, *]
    · split
      · rename_i h1 h2
        have e : 1 + (i - 1) = i := by omega
        have h3 : i < 3 := by omega
        simp [modeField, e, h2, h3]
      · rename_i h1 h2
        have e : 3 + (i - 1 - 2) = i := by omega
        have h3 : i - 1 - 2 < 29 := by omega
        simp [rsvField, e, h3]
  have h' := h
  split at h' <;> (try split at h') <;> exact h'.symm

/-- The two values of DIR. -/
theorem dirField_cases (v : Word) : dirField v = 0#1 ∨ dirField v = 1#1 := by
  generalize dirField v = d
  revert d; decide

/-- The four values of MODE. -/
theorem modeField_cases (v : Word) :
    modeField v = 0b00#2 ∨ modeField v = 0b01#2 ∨ modeField v = 0b10#2 ∨ modeField v = 0b11#2 := by
  generalize modeField v = m
  revert m; decide

end Sys2Proof
end

