-- ==== Sys2Proof/Laws/PerInstr.lean ====
section
/-!
SUPPORT. A statement about every command as syntax: the fields of its command word (30_encoding.md R80, R81), one lemma per constructor.
-/

namespace Sys2Proof.Laws.CommandWordFields

/-- The command's word has RSV = 0, its MODE and its DIR in their fields, and the command is well-formed. -/
def Statement (i : Instr) : Prop :=
  rsvField (encode i) = 0#29 ∧ modeField (encode i) = modeOf i ∧ dirField (encode i) = dirOf i ∧ i.wellFormed = true

theorem shl : Statement .shl := by unfold Statement; decide

theorem shr : Statement .shr := by unfold Statement; decide

theorem rol : Statement .rol := by unfold Statement; decide

theorem ror : Statement .ror := by unfold Statement; decide

theorem rolw : Statement .rolw := by unfold Statement; decide

theorem rorw : Statement .rorw := by unfold Statement; decide

end Sys2Proof.Laws.CommandWordFields
end

