-- ==== Sys2Proof/Tests/Slice0.lean ====
section
/-!
SUPPORT. Tests and witnesses. Expected results come from spec/95_test_vectors.md (each test names its vector) or from the rule a docstring names.
A witness theorem shows, for an obligation of the same name, a concrete state and operands that meet its hypotheses, clause by clause.
-/

namespace Sys2Proof.Tests

open Sys2Proof.Machine

/-! ## Small states -/

/-- The bytes of a buffer, from an index on. -/
def cellsFrom : Nat → List Byte → Memory
  | _, [] => []
  | i, b :: bs => (i, b) :: cellsFrom (i + 1) bs

/-- An idle block with MAX_LEN = 8, bound to the bytes. -/
def idle (bytes : List Byte) (count window : Int) : State :=
  { busy := false
    carry := false
    bound := true
    err := .none
    count := BitVec.ofInt 32 count
    window := BitVec.ofInt 32 window
    len := BitVec.ofNat 13 bytes.length
    maxLen := 8#13
    buf := cellsFrom 0 bytes
    latch := { opl := .shl, kl := 0, wl := 0, lenl := 0 }
    resets := 0
    pending := []
    schedule := []
    responses := [] }

/-- The same block with the command `i` in flight, as its acceptance leaves it. -/
def flight (i : Instr) (bytes : List Byte) (count window : Int) : State :=
  latchCommand (acceptedLatch i (idle bytes count window)) (idle bytes count window)

/-- The host moves next, and performs `op`. -/
def asks (s : State) (op : HostOp) : State := { s with pending := [op], schedule := [.host] }

/-- The state of an outcome that is next has the property. -/
def nextHas (o : Host.Outcome State Fault Refusal) (p : State → Bool) : Bool :=
  match o with
  | .next t => p t
  | .fault _ => false
  | .refused _ => false

/-- The bytes BUF[0] to BUF[n - 1]. -/
def bytes (n : Nat) (s : State) : List Byte := (List.range n).map (bufByte s)

/-- The newest response. -/
def answered (r : Response) (s : State) : Bool := s.responses.head? = some r

theorem asks_hostDoes (s : State) (op : HostOp) : hostDoes (asks s op) op := ⟨rfl, rfl⟩

theorem asks_presents (s : State) (v : Word) (h : s.busy = false) : presents (asks s (.write cmdOffset 4 v)) v :=
  ⟨asks_hostDoes s _, h⟩

/-- The invariant of a concrete state, its parts decided one by one. -/
theorem idle_invariant : BlockInv (idle [0x81#8, 0x03#8] 1 6) :=
  ⟨by decide, by decide, by decide, by decide, by decide⟩

theorem flight_invariant : BlockInv (flight .rolw [0x81#8, 0x03#8] 1 16) :=
  ⟨by decide, by decide, by decide, by decide, by decide⟩

theorem flight_empty_window_invariant : BlockInv (flight .rorw [0x81#8, 0x03#8] 5 0) :=
  ⟨by decide, by decide, by decide, by decide, by decide⟩

/-! ## Well-formedness: the one check there is (20_memory.md R50) -/

theorem test_byte_write_of_nine_bits_is_ill_formed : (HostOp.write 0x1000#13 1 0x100#32).wellFormed = false := by decide

theorem test_byte_write_of_eight_bits_is_well_formed : (HostOp.write 0x1000#13 1 0xFF#32).wellFormed = true := by decide

theorem test_word_write_is_well_formed : (HostOp.write 0x1000#13 4 0xFFFFFFFF#32).wellFormed = true := by decide

theorem test_every_command_is_well_formed :
    [Instr.shl, .shr, .rol, .ror, .rolw, .rorw].all Instr.wellFormed = true := by decide

/-! ## Decoding: the words of 30_encoding.md R81, RSV, MODE and DIR written out, and the illegal words D1 to D5 -/

theorem test_decode_shl : decode 0b00000000000000000000000000000_01_0#32 = .command .shl := by decide

theorem test_decode_shr : decode 0b00000000000000000000000000000_01_1#32 = .command .shr := by decide

theorem test_decode_rol : decode 0b00000000000000000000000000000_10_0#32 = .command .rol := by decide

theorem test_decode_ror : decode 0b00000000000000000000000000000_10_1#32 = .command .ror := by decide

theorem test_decode_rolw : decode 0b00000000000000000000000000000_11_0#32 = .command .rolw := by decide

theorem test_decode_rorw : decode 0b00000000000000000000000000000_11_1#32 = .command .rorw := by decide

theorem test_decode_zero : decode 0x00000000#32 = .illegal .reservedMode := by decide

theorem test_decode_one : decode 0x00000001#32 = .illegal .reservedMode := by decide

theorem test_decode_bit_three : decode 0x00000008#32 = .illegal .reservedBits := by decide

theorem test_decode_bit_thirty_one : decode 0x80000002#32 = .illegal .reservedBits := by decide

theorem test_decode_ten : decode 0x0000000A#32 = .illegal .reservedBits := by decide

theorem test_table_word_rorw : decodeTableWord 32 0x7 = some .rorw := by decide

theorem test_table_word_illegal : decodeTableWord 32 0x9 = none := by decide

/-! ## The commands: one step each -/

/-- S3: no wrap, and the carry. -/
theorem test_shl_completes :
    nextHas (exec .shl (flight .shl [0x81#8, 0x03#8] 0 0)) (fun t => bytes 2 t = [0x02#8, 0x06#8] && t.carry) = true := by
  decide

/-- S12: SHL reads neither COUNT nor WINDOW. -/
theorem test_shl_ignores_count :
    nextHas (exec .shl (idle [0x40#8] (-1) (-7))) (fun t => t.busy && t.err = .none) = true := by decide

/-- S4: the lane carry. -/
theorem test_shr_completes :
    nextHas (exec .shr (flight .shr [0x81#8, 0x03#8] 0 0)) (fun t => bytes 2 t = [0x40#8, 0x81#8] && t.carry) = true := by
  decide

/-- S11: the empty buffer clears the carry. -/
theorem test_shr_empty_clears_carry :
    nextHas (exec .shr { flight .shr [] 0 0 with carry := true }) (fun t => !t.carry && !t.busy) = true := by decide

/-- F10: a count near the top of its range. -/
theorem test_rol_completes :
    nextHas (exec .rol (flight .rol [0x12#8, 0x34#8, 0x56#8] 2147483647 (-5)))
      (fun t => bytes 3 t = [0x1A#8, 0x2B#8, 0x09#8] && !t.carry) = true := by decide

/-- F19: the most negative count. -/
theorem test_rol_negative_count :
    nextHas (exec .rol (idle [0x11#8] (-2147483648) (-5))) (fun t => t.err = .negativeCount && !t.busy) = true := by decide

/-- F16: a bit crosses a lane. -/
theorem test_ror_completes :
    nextHas (exec .ror (flight .ror [0x01#8, 0x00#8, 0x00#8, 0x00#8] 1 (-5)))
      (fun t => bytes 4 t = [0x00#8, 0x80#8, 0x00#8, 0x00#8]) = true := by decide

/-- 42_rotate.md R143: NULL_BUFFER when BOUND = 0, with any count. -/
theorem test_ror_null_buffer :
    nextHas (exec .ror { idle [0x11#8] (-1) 0 with bound := false }) (fun t => t.err = .nullBuffer && !t.busy) = true := by
  decide

/-- X9: a window that ends inside a byte, the padding kept. -/
theorem test_rolw_completes :
    nextHas (exec .rolw (flight .rolw [0xAB#8, 0xCD#8] 4 12)) (fun t => bytes 2 t = [0xBC#8, 0xAD#8]) = true := by decide

/-- X26: a window longer than the buffer. -/
theorem test_rolw_invalid_window :
    nextHas (exec .rolw (idle [0x11#8] 1 9)) (fun t => t.err = .invalidWindow && !t.busy) = true := by decide

/-- X24: the window's last bit wraps to position 0. -/
theorem test_rorw_completes :
    nextHas (exec .rorw (flight .rorw [0x00#8, 0x80#8] 1 9)) (fun t => bytes 2 t = [0x80#8, 0x00#8]) = true := by decide

/-- X12: a byte-aligned window shorter than the buffer. -/
theorem test_rorw_aligned_window :
    nextHas (exec .rorw (flight .rorw [0x81#8, 0xFF#8] 1 8)) (fun t => bytes 2 t = [0xC0#8, 0xFF#8]) = true := by decide

/-! ## The bus and the agents: one step each -/

/-- B1. -/
theorem test_read_id :
    nextHas (step (asks (idle [] 0 0) (.read 0x014#13 4))) (answered (.read .okay (.word 0x42525301#32))) = true := by decide

/-- B4: LEN past MAX_LEN unbinds and keeps LEN. -/
theorem test_write_len_past_capacity :
    nextHas (step (asks (idle [0x11#8] 0 0) (.write 0x010#13 4 9#32)))
      (fun t => !t.bound && t.len = 1#13 && answered (.write .okay) t) = true := by decide

/-- B6: the lane order of a word write. -/
theorem test_write_buf_word :
    nextHas (step (asks (idle [] 0 0) (.write 0x1004#13 4 0x01020304#32)))
      (fun t => (List.range 4).map (fun j => bufByte t (4 + j)) = [1#8, 2#8, 3#8, 4#8]) = true := by decide

/-- B7: a misaligned word read. -/
theorem test_read_buf_misaligned :
    nextHas (step (asks (idle [] 0 0) (.read 0x1002#13 4))) (answered (.read .error (.word 0#32))) = true := by decide

/-- B13: no transaction of 2 bytes. -/
theorem test_two_byte_read :
    nextHas (step (asks (idle [] 0 0) (.read 0x000#13 2))) (answered (.read .error (.other 0))) = true := by decide

/-- B14: the lanes past MAX_LEN read 0. -/
theorem test_read_past_capacity :
    nextHas (step (asks { idle [1#8, 2#8, 3#8, 4#8, 5#8, 6#8] 0 0 with maxLen := 6#13 } (.read 0x1004#13 4)))
      (answered (.read .okay (.word 0x05060000#32))) = true := by decide

/-- B15: a COUNT write while BUSY = 1. -/
theorem test_write_count_while_busy :
    nextHas (step (asks (flight .shl [0x11#8] 3 0) (.write 0x008#13 4 5#32)))
      (fun t => t.count = 3#32 && answered (.write .error) t) = true := by decide

/-- B17: a CMD write while BUSY = 1 is no acceptance. -/
theorem test_write_cmd_while_busy :
    nextHas (step (asks (flight .rol [0x11#8] 3 0) (.write 0x000#13 4 2#32)))
      (fun t => t.busy && t.latch.opl = .rol && answered (.write .error) t) = true := by decide

/-- D2: ILLEGAL_COMMAND wins over NULL_BUFFER. -/
theorem test_illegal_word_wins :
    nextHas (step (asks { idle [0x11#8] 0 0 with bound := false } (.write 0x000#13 4 1#32))) (fun t => t.err = .illegalCommand)
      = true := by decide

/-- P4: STATUS after a NEGATIVE_COUNT rejection. -/
theorem test_status_word : statusWord { idle [0xA5#8] 0 0 with err := .negativeCount } = 0x24#32 := by decide

/-- 70_reset_and_hazards.md R230: a reset abandons the command in flight. -/
theorem test_reset_abandons :
    nextHas (step { flight .rol [0x11#8] 3 0 with schedule := [.platform] }) (fun t => !t.busy && !t.bound && t.buf = [])
      = true := by decide

/-- A word placed where the next step takes it is run by that step (40_command_cycle.md R101; log 22). -/
theorem test_withFetchWord :
    nextHas (step ((idle [0x11#8] 9 0).withFetchWord 32 0x4)) (fun t => t.busy && t.latch = ⟨.rol, 1, 8, 1⟩) = true := by decide

/-! ## Witnesses: reset, invariant, progress -/

theorem witness_StepKeepsInvariant_acceptance :
    ∃ s t, BlockInv s ∧ step s = .next t ∧ t.busy = true ∧ s.busy = false :=
  ⟨asks (idle [0x81#8, 0x03#8] 1 6) (.write cmdOffset 4 6#32), _, ⟨by decide, by decide, by decide, by decide, by decide⟩, rfl,
    rfl, rfl⟩

theorem witness_StepKeepsInvariant_completion :
    ∃ s t, BlockInv s ∧ step s = .next t ∧ s.busy = true ∧ t.busy = false :=
  ⟨flight .rolw [0x81#8, 0x03#8] 1 16, _, flight_invariant, rfl, rfl, rfl⟩

theorem witness_ResetStepClearsBlock : ∃ s : State, nextAgent s = .platform ∧ s.busy = true :=
  ⟨{ flight .shl [0x11#8] 0 0 with schedule := [.platform] }, rfl, rfl⟩

theorem witness_CompletionNeverFails : ∃ s : State, s.busy = true ∧ nextAgent s = .engine :=
  ⟨flight .shl [0x11#8] 0 0, rfl, rfl⟩

theorem witness_BusyEventuallyClears : ∃ s : State, s.busy = true ∧ s.schedule = [.host, .host] :=
  ⟨{ flight .shl [0x11#8] 0 0 with schedule := [.host, .host] }, rfl, rfl⟩

theorem witness_WaitIdleEnds : ∃ s : State, s.pending = [.waitIdle] ∧ s.busy = true :=
  ⟨{ flight .shl [0x11#8] 0 0 with pending := [.waitIdle] }, rfl, rfl⟩

theorem witness_EndedProgramStays : ∃ s : State, ended s = true ∧ s.schedule = [] := ⟨idle [0x11#8] 0 0, rfl, rfl⟩

/-! ## Witnesses: decoding and rejection -/

theorem witness_DecodeFollowsFields :
    (∃ v : Word, v.extractLsb' 3 29 ≠ 0#29) ∧
    (∃ v : Word, v.extractLsb' 3 29 = 0#29 ∧ v.extractLsb' 1 2 = 0b00#2) ∧
    (∃ v : Word, v.extractLsb' 3 29 = 0#29 ∧ v.extractLsb' 1 2 = 0b01#2) ∧
    (∃ v : Word, v.extractLsb' 3 29 = 0#29 ∧ v.extractLsb' 1 2 = 0b10#2) ∧
    (∃ v : Word, v.extractLsb' 3 29 = 0#29 ∧ v.extractLsb' 1 2 = 0b11#2) :=
  ⟨⟨0x80000002#32, by decide⟩, ⟨1#32, by decide⟩, ⟨2#32, by decide⟩, ⟨5#32, by decide⟩, ⟨7#32, by decide⟩⟩

theorem witness_IllegalWordRejected :
    (∃ s, presents s 0#32) ∧ (∃ s, presents s 1#32) ∧ (∃ s, presents s 8#32 ∧ (8#32 : Word).extractLsb' 3 29 ≠ 0#29) :=
  ⟨⟨_, asks_presents (idle [0x11#8] 0 0) 0#32 rfl⟩, ⟨_, asks_presents (idle [0x11#8] 0 0) 1#32 rfl⟩,
    ⟨_, asks_presents (idle [0x11#8] 0 0) 8#32 rfl, by decide⟩⟩

theorem witness_StepRunsDecodedCommand :
    (∃ s, presents s 6#32 ∧ decode 6#32 = .command .rolw ∧ Instr.rolw.wellFormed = true) ∧
    (∃ s : State, nextAgent s = .engine ∧ s.busy = true) :=
  ⟨⟨_, asks_presents (idle [0x11#8] 1 8) 6#32 rfl, by decide, rfl⟩, ⟨flight .ror [0x11#8] 1 0, rfl, rfl⟩⟩

/-- Clause by clause, at the boundaries -1, 0, 8 x LEN and 8 x LEN + 1. -/
theorem witness_CommandErrorPriority :
    (∃ s, presents s 0x80000002#32 ∧ ∀ i, 0x80000002#32 ≠ encode i) ∧
    (∃ s, presents s (encode .shl) ∧ s.bound = false) ∧
    (∃ s, presents s (encode .rol) ∧ s.bound = true ∧ s.count.toInt = -1) ∧
    (∃ s, presents s (encode .rolw) ∧ s.bound = true ∧ s.count.toInt = 0 ∧ s.window.toInt = -1) ∧
    (∃ s, presents s (encode .rorw) ∧ s.bound = true ∧ s.count.toInt = 0 ∧ s.window.toInt = 8 * (s.len.toNat : Int) + 1) ∧
    (∃ s, presents s (encode .rorw) ∧ s.bound = true ∧ s.count.toInt = 0 ∧ s.window.toInt = 8 * (s.len.toNat : Int)) ∧
    (∃ s, presents s (encode .rolw) ∧ s.bound = true ∧ s.count.toInt = 0 ∧ s.window.toInt = 0) ∧
    (∃ s, presents s (encode .shr) ∧ s.bound = true ∧ s.count.toInt = -1) :=
  ⟨⟨_, asks_presents (idle [0x11#8] 0 0) _ rfl, fun i => by cases i <;> decide⟩,
   ⟨_, asks_presents { idle [0x11#8] 0 0 with bound := false } _ rfl, rfl⟩,
   ⟨_, asks_presents (idle [0x11#8] (-1) 0) _ rfl, rfl, by decide⟩,
   ⟨_, asks_presents (idle [0x11#8] 0 (-1)) _ rfl, rfl, by decide, by decide⟩,
   ⟨_, asks_presents (idle [0x11#8] 0 9) _ rfl, rfl, by decide, by decide⟩,
   ⟨_, asks_presents (idle [0x11#8] 0 8) _ rfl, rfl, by decide, by decide⟩,
   ⟨_, asks_presents (idle [0x11#8] 0 0) _ rfl, rfl, by decide, by decide⟩,
   ⟨_, asks_presents (idle [0x11#8] (-1) 0) _ rfl, rfl, by decide⟩⟩

theorem witness_RejectionWritesOnlyErr :
    ∃ s t, presents s 9#32 ∧ step s = .next t ∧ t.busy = false ∧ hostDoes t (.read statusOffset 4) :=
  ⟨{ idle [0x11#8] 0 0 with pending := [.write cmdOffset 4 9#32, .read statusOffset 4], schedule := [.host, .host] }, _,
    ⟨⟨rfl, rfl⟩, rfl⟩, rfl, rfl, ⟨rfl, rfl⟩⟩

theorem witness_AcceptedCommandLatch :
    (∃ s : State, s.busy = false ∧ s.bound = true) ∧
    (∃ s : State, s.busy = false ∧ s.bound = true ∧ s.count.toInt = 0) ∧
    (∃ s : State, s.busy = false ∧ s.bound = true ∧ s.count.toInt = 2147483647 ∧ s.window.toInt = 8 * (s.len.toNat : Int)) ∧
    (∃ s : State, s.busy = false ∧ s.bound = true ∧ s.count.toInt = 0 ∧ s.window.toInt = 0) :=
  ⟨⟨idle [0x11#8] 0 0, rfl, rfl⟩, ⟨idle [0x11#8] 0 0, rfl, rfl, by decide⟩,
   ⟨idle [0x11#8] 2147483647 8, rfl, rfl, by decide, by decide⟩, ⟨idle [0x11#8] 0 0, rfl, rfl, by decide, by decide⟩⟩

theorem witness_AcceptanceIsOneTransaction :
    ∃ s, presents s 6#32 ∧ decode 6#32 = .command .rolw ∧ operandError .rolw s = none :=
  ⟨_, asks_presents (idle [0x11#8] 1 8) _ rfl, by decide, by decide⟩

theorem witness_NothingToDoIsStillAccepted :
    (∃ s : State, s.busy = false ∧ operandError .shr s = none ∧ s.len = 0#13) ∧
    (∃ s : State, s.busy = false ∧ operandError .rol s = none ∧ s.len = 1#13 ∧ (acceptedLatch .rol s).kl = 0) ∧
    (∃ s : State, s.busy = false ∧ operandError .rolw s = none ∧ s.len = 1#13 ∧ (acceptedLatch .rolw s).wl = 0) :=
  ⟨⟨{ idle [] 0 0 with carry := true }, rfl, by decide, rfl⟩, ⟨idle [0x11#8] 8 0, rfl, by decide, by decide, by decide⟩,
   ⟨idle [0x11#8] 3 0, rfl, by decide, by decide, by decide⟩⟩

theorem witness_CompletionFrame :
    (∃ s : State, s.busy = true ∧ s.latch.opl = .shl) ∧
    (∃ s : State, s.busy = true ∧ s.latch.opl ≠ .shl ∧ s.latch.opl ≠ .shr ∧ s.latch.lenl ≤ 1) :=
  ⟨⟨flight .shl [0x11#8] 0 0, rfl, rfl⟩, ⟨flight .rorw [0x11#8] 1 6, rfl, by decide, by decide, by decide⟩⟩

theorem witness_InFlightLatchBounds :
    (∃ s : State, BlockInv s ∧ s.busy = true ∧ 0 < s.latch.wl) ∧ (∃ s : State, BlockInv s ∧ s.busy = true ∧ s.latch.wl = 0) :=
  ⟨⟨_, flight_invariant, rfl, by decide⟩, ⟨_, flight_empty_window_invariant, rfl, by decide⟩⟩

theorem witness_InFlightCommandIsFixed : ∃ s : State, s.busy = true ∧ nextAgent s = .host ∧ s.pending ≠ [] :=
  ⟨asks (flight .shl [0x11#8] 0 0) (.write 0x008#13 4 5#32), rfl, rfl, by decide⟩

theorem witness_IdleLatchIsHidden : ∃ (s : State) (l : Latch), s.busy = false ∧ l ≠ s.latch :=
  ⟨idle [0x11#8] 0 0, ⟨.rorw, 3, 7, 1⟩, rfl, by decide⟩

theorem witness_ResultDependsOnlyOnOperands :
    ∃ s s' : State, s.busy = false ∧ s'.busy = false ∧ s.bound = s'.bound ∧ s.count = s'.count ∧ s.window = s'.window ∧
      s.len = s'.len ∧ (∀ j < s.len.toNat, bufByte s j = bufByte s' j) ∧ s.carry ≠ s'.carry ∧ s.bound = true :=
  ⟨idle [0x11#8] 1 6, { idle [0x11#8] 1 6 with carry := true, maxLen := 4#13, buf := [(0, 0x11#8), (3, 0xFF#8)] },
    rfl, rfl, rfl, rfl, rfl, rfl, by decide, by decide, rfl⟩

/-! ## Witnesses: the shift family -/

theorem witness_ShiftLaneEquations :
    (∃ s : State, s.busy = true ∧ s.latch.opl = .shl ∧ 0 < s.latch.lenl) ∧
    (∃ s : State, s.busy = true ∧ s.latch.opl = .shl ∧ s.latch.lenl = 0) ∧
    (∃ s : State, s.busy = true ∧ s.latch.opl = .shr ∧ 0 < s.latch.lenl) ∧
    (∃ s : State, s.busy = true ∧ s.latch.opl = .shr ∧ s.latch.lenl = 0) :=
  ⟨⟨flight .shl [0x11#8, 0x80#8] 0 0, rfl, rfl, by decide⟩, ⟨flight .shl [] 0 0, rfl, rfl, rfl⟩,
   ⟨flight .shr [0x11#8, 0x80#8] 0 0, rfl, rfl, by decide⟩, ⟨flight .shr [] 0 0, rfl, rfl, rfl⟩⟩

theorem witness_ShlMovesBitsLeft :
    (∃ S : Bits, S ≠ []) ∧
    (∃ s : State, s.busy = true ∧ s.latch.opl = .shl ∧ 0 < s.latch.lenl) ∧
    (∃ s : State, s.busy = true ∧ s.latch.opl = .shl ∧ s.latch.lenl = 0) :=
  ⟨⟨[true], by decide⟩, witness_ShiftLaneEquations.1, witness_ShiftLaneEquations.2.1⟩

theorem witness_ShrMovesBitsRight :
    (∃ S : Bits, S ≠ [] ∧ 1 < S.length) ∧
    (∃ s : State, s.busy = true ∧ s.latch.opl = .shr ∧ 0 < s.latch.lenl) ∧
    (∃ s : State, s.busy = true ∧ s.latch.opl = .shr ∧ s.latch.lenl = 0) :=
  ⟨⟨[true, false], by decide, by decide⟩, witness_ShiftLaneEquations.2.2.1, witness_ShiftLaneEquations.2.2.2⟩

theorem witness_EmptyShiftClearsCarry :
    ∃ s : State, s.busy = false ∧ s.bound = true ∧ s.len = 0#13 ∧ s.carry = true :=
  ⟨{ idle [] 0 0 with carry := true }, rfl, rfl, rfl, rfl⟩

theorem witness_ShiftLaws : ∃ s : State, s.busy = false ∧ s.bound = true ∧ 0 < s.len.toNat :=
  ⟨idle [0x11#8] 0 0, rfl, rfl, by decide⟩

/-! ## Witnesses: the rotations -/

theorem witness_OneBitRotationSteps : ∃ S : Bits, S ≠ [] ∧ 0 < S.length := ⟨[true], by decide, by decide⟩

theorem witness_WrappedBitPositions :
    (∃ S : Bits, S ≠ []) ∧
    (∃ s : State, s.busy = true ∧ s.latch.kl = 1 ∧ 0 < s.latch.lenl ∧ s.latch.opl = .rol) ∧
    (∃ s : State, s.busy = true ∧ s.latch.kl = 1 ∧ 0 < s.latch.lenl ∧ s.latch.opl = .ror) :=
  ⟨⟨[true], by decide⟩, ⟨flight .rol [0x81#8] 1 0, rfl, by decide, by decide, rfl⟩,
   ⟨flight .ror [0x81#8, 0x03#8] 17 0, rfl, by decide, by decide, rfl⟩⟩

theorem witness_RotationClosedForm : ∃ (S : Bits) (k : Nat), k < S.length ∧ k + 1 = S.length ∧ 0 < k :=
  ⟨[true, false, true], 2, by decide, by decide, by decide⟩

theorem witness_RotationCompletes :
    (∃ s : State, s.busy = true ∧ s.latch.lenl = 0 ∧ s.latch.opl = .rol) ∧
    (∃ s : State, s.busy = true ∧ s.latch.kl + 1 = 8 * s.latch.lenl ∧ s.latch.opl = .rol) ∧
    (∃ s : State, s.busy = true ∧ s.latch.lenl = 0 ∧ s.latch.opl = .ror) ∧
    (∃ s : State, s.busy = true ∧ s.latch.kl < 8 * s.latch.lenl ∧ s.latch.opl = .ror) :=
  ⟨⟨flight .rol [] 5 0, rfl, rfl, rfl⟩, ⟨flight .rol [0x81#8] 7 0, rfl, by decide, rfl⟩, ⟨flight .ror [] 5 0, rfl, rfl, rfl⟩,
   ⟨flight .ror [0x81#8] 0 0, rfl, by decide, rfl⟩⟩

theorem witness_RotationLaws :
    (∃ s : State, s.busy = false ∧ s.bound = true ∧ 0 ≤ s.count.toInt ∧ s.count.toNat = 8 * s.len.toNat ∧ 0 < s.len.toNat) ∧
    (∃ s : State, s.busy = false ∧ s.bound = true ∧ 0 ≤ s.count.toInt ∧ s.count = 0#32) :=
  ⟨⟨idle [0x11#8] 8 (-5), rfl, rfl, by decide, by decide, by decide⟩, ⟨idle [] 0 0, rfl, rfl, by decide, by decide⟩⟩

theorem witness_WindowStepPositions :
    (∃ (S : Bits) (w : Nat), 1 ≤ w ∧ w ≤ S.length ∧ w = 1 ∧ 1 < S.length) ∧
    (∃ (S : Bits) (w : Nat), 1 ≤ w ∧ w ≤ S.length ∧ w = S.length) ∧
    (∃ (S : Bits) (w : Nat), 1 ≤ w ∧ w ≤ S.length ∧ 1 < w ∧ w < S.length) :=
  ⟨⟨[true, false], 1, by decide, by decide, rfl, by decide⟩, ⟨[true, false], 2, by decide, by decide, by decide⟩,
   ⟨[true, false, true], 2, by decide, by decide, by decide, by decide⟩⟩

theorem witness_WindowClosedForm :
    (∃ (S : Bits) (w k : Nat), k < w ∧ w ≤ S.length ∧ k + 1 = w ∧ w < S.length ∧ 0 < k) ∧
    (∃ (S : Bits) (w k : Nat), k < w ∧ w ≤ S.length ∧ k = 0 ∧ w = S.length) :=
  ⟨⟨[true, false, true], 2, 1, by decide, by decide, by decide, by decide, by decide⟩,
   ⟨[true, false, true], 3, 0, by decide, by decide, by decide, by decide⟩⟩

theorem witness_WindowedRotationCompletes :
    (∃ s : State, s.busy = true ∧ s.latch.wl ≤ 8 * s.latch.lenl ∧ s.latch.kl < s.latch.wl ∧ s.latch.opl = .rolw ∧
      s.latch.wl < 8 * s.latch.lenl) ∧
    (∃ s : State, s.busy = true ∧ s.latch.wl ≤ 8 * s.latch.lenl ∧ s.latch.wl = 0 ∧ s.latch.kl = 0 ∧ s.latch.opl = .rolw) ∧
    (∃ s : State, s.busy = true ∧ s.latch.wl ≤ 8 * s.latch.lenl ∧ s.latch.kl < s.latch.wl ∧ s.latch.opl = .rorw ∧
      s.latch.wl = 8 * s.latch.lenl) ∧
    (∃ s : State, s.busy = true ∧ s.latch.wl ≤ 8 * s.latch.lenl ∧ s.latch.wl = 0 ∧ s.latch.kl = 0 ∧ s.latch.opl = .rorw) :=
  ⟨⟨flight .rolw [0x21#8] 5 6, rfl, by decide, by decide, rfl, by decide⟩,
   ⟨flight .rolw [0x21#8] 5 0, rfl, by decide, by decide, by decide, rfl⟩,
   ⟨flight .rorw [0x21#8] 7 8, rfl, by decide, by decide, rfl, by decide⟩,
   ⟨flight .rorw [] 0 0, rfl, by decide, by decide, by decide, rfl⟩⟩

theorem witness_WindowLaws :
    (∃ s : State, s.busy = false ∧ s.bound = true ∧ 0 ≤ s.count.toInt ∧ 1 ≤ s.window.toInt ∧
      s.window.toInt = 8 * (s.len.toNat : Int)) ∧
    (∃ s : State, s.busy = false ∧ s.bound = true ∧ 0 ≤ s.count.toInt ∧ 1 ≤ s.window.toInt ∧
      s.window.toInt ≤ 8 * (s.len.toNat : Int) ∧ s.count = s.window ∧ s.window.toNat < 8 * s.len.toNat) :=
  ⟨⟨idle [0x11#8] 1 8, rfl, rfl, by decide, by decide, by decide⟩,
   ⟨idle [0xF0#8, 0x0F#8] 6 6, rfl, rfl, by decide, by decide, by decide, by decide, by decide⟩⟩

/-! ## Witnesses: registers -/

/-- LEN at MAX_LEN and at MAX_LEN + 1, at 0, while BUSY = 1, and read. -/
theorem witness_LenRegister :
    (∃ s, hostDoes s (.write 0x010#13 4 8#32) ∧ s.busy = false ∧ (8#32).toNat = s.maxLen.toNat) ∧
    (∃ s, hostDoes s (.write 0x010#13 4 0#32) ∧ s.busy = false ∧ (0#32).toNat ≤ s.maxLen.toNat) ∧
    (∃ s, hostDoes s (.write 0x010#13 4 9#32) ∧ s.busy = false ∧ s.maxLen.toNat < (9#32).toNat) ∧
    (∃ s, hostDoes s (.write 0x010#13 4 8#32) ∧ s.busy = true) ∧
    (∃ s, hostDoes s (.read 0x010#13 4)) :=
  ⟨⟨_, asks_hostDoes (idle [] 0 0) _, rfl, by decide⟩, ⟨_, asks_hostDoes (idle [] 0 0) _, rfl, by decide⟩,
   ⟨_, asks_hostDoes (idle [] 0 0) _, rfl, by decide⟩, ⟨_, asks_hostDoes (flight .shl [0x11#8] 0 0) _, rfl⟩,
   ⟨_, asks_hostDoes (idle [] 0 0) _⟩⟩

theorem witness_CountAndWindowRegisters :
    (∃ s, hostDoes s (.write 0x008#13 4 0xFFFFFFFF#32) ∧ s.busy = false) ∧
    (∃ s, hostDoes s (.write 0x008#13 4 0xFFFFFFFF#32) ∧ s.busy = true) ∧
    (∃ s, hostDoes s (.write 0x00C#13 4 0xFFFFFFFF#32) ∧ s.busy = false) ∧
    (∃ s, hostDoes s (.write 0x00C#13 4 0xFFFFFFFF#32) ∧ s.busy = true) ∧
    (∃ s, hostDoes s (.read 0x008#13 4)) ∧ (∃ s, hostDoes s (.read 0x00C#13 4)) :=
  ⟨⟨_, asks_hostDoes (idle [] 0 0) _, rfl⟩, ⟨_, asks_hostDoes (flight .shl [0x11#8] 0 0) _, rfl⟩,
   ⟨_, asks_hostDoes (idle [] 0 0) _, rfl⟩, ⟨_, asks_hostDoes (flight .shl [0x11#8] 0 0) _, rfl⟩,
   ⟨_, asks_hostDoes (idle [] 0 0) _⟩, ⟨_, asks_hostDoes (idle [] 0 0) _⟩⟩

theorem witness_IdAndCfgRegisters :
    (∃ s, hostDoes s (.read 0x014#13 4)) ∧ (∃ s, hostDoes s (.read 0x018#13 4)) ∧
    (∃ s, hostDoes s (.write 0x014#13 4 1#32)) ∧ (∃ s, hostDoes s (.write 0x018#13 4 1#32)) :=
  ⟨⟨_, asks_hostDoes (idle [] 0 0) _⟩, ⟨_, asks_hostDoes (idle [] 0 0) _⟩, ⟨_, asks_hostDoes (idle [] 0 0) _⟩,
   ⟨_, asks_hostDoes (idle [] 0 0) _⟩⟩

theorem witness_CmdAndStatusReads :
    (∃ s, hostDoes s (.read 0x000#13 4)) ∧ (∃ s, hostDoes s (.read 0x004#13 4)) ∧
    (∃ s, hostDoes s (.write 0x004#13 4 0xFFFFFFFF#32)) :=
  ⟨⟨_, asks_hostDoes (idle [] 0 0) _⟩, ⟨_, asks_hostDoes (idle [] 0 0) _⟩, ⟨_, asks_hostDoes (idle [] 0 0) _⟩⟩

/-! ## Witnesses: the host bus -/

/-- The last byte offset of the last register, and its own offset. -/
theorem witness_RegisterAccessSizes :
    (∃ s, hostDoes s (.read 0x01B#13 4) ∧ (0x01B#13).toNat ≤ 0x1B ∧ (0x01B#13).toNat % 4 ≠ 0) ∧
    (∃ s, hostDoes s (.write 0x018#13 1 1#32) ∧ (0x018#13).toNat ≤ 0x1B) ∧
    (∃ s, hostDoes s (.read 0x018#13 4) ∧ (0x018#13).toNat % 4 = 0) ∧
    (∃ s, hostDoes s (.write 0x000#13 4 1#32) ∧ s.busy = false ∧ (0x000#13).toNat % 4 = 0) :=
  ⟨⟨_, asks_hostDoes (idle [] 0 0) _, by decide, by decide⟩, ⟨_, asks_hostDoes (idle [] 0 0) _, by decide⟩,
   ⟨_, asks_hostDoes (idle [] 0 0) _, by decide⟩, ⟨_, asks_hostDoes (idle [] 0 0) _, rfl, by decide⟩⟩

/-- The last byte of BUF, the first past it, a misaligned word, and an in-range byte while BUSY = 1. -/
theorem witness_BufTransactions :
    (∃ s, hostDoes s (.read 0x1007#13 1) ∧ (0x1007#13).toNat = 0x1000 + 7 ∧ s.busy = false ∧ 7 < s.maxLen.toNat) ∧
    (∃ s, hostDoes s (.write 0x1007#13 1 5#32) ∧ (0x1007#13).toNat = 0x1000 + 7 ∧ s.busy = false ∧ 7 < s.maxLen.toNat) ∧
    (∃ s, hostDoes s (.read 0x1004#13 4) ∧ (0x1004#13).toNat = 0x1000 + 4 ∧ s.busy = false ∧ 4 < s.maxLen.toNat) ∧
    (∃ s, hostDoes s (.write 0x1004#13 4 5#32) ∧ (0x1004#13).toNat = 0x1000 + 4 ∧ s.busy = false ∧ s.maxLen.toNat = 6) ∧
    (∃ s, hostDoes s (.read 0x1002#13 4) ∧ (0x1002#13).toNat = 0x1000 + 2 ∧ 2 % 4 ≠ 0 ∧ s.busy = false) ∧
    (∃ s, hostDoes s (.write 0x1008#13 1 5#32) ∧ (0x1008#13).toNat = 0x1000 + 8 ∧ s.maxLen.toNat ≤ 8) ∧
    (∃ s, hostDoes s (.read 0x1000#13 1) ∧ (0x1000#13).toNat = 0x1000 + 0 ∧ s.busy = true) :=
  ⟨⟨_, asks_hostDoes (idle [] 0 0) _, by decide, rfl, by decide⟩, ⟨_, asks_hostDoes (idle [] 0 0) _, by decide, rfl, by decide⟩,
   ⟨_, asks_hostDoes (idle [] 0 0) _, by decide, rfl, by decide⟩,
   ⟨_, asks_hostDoes { idle [] 0 0 with maxLen := 6#13 } _, by decide, rfl, by decide⟩,
   ⟨_, asks_hostDoes (idle [] 0 0) _, by decide, by decide, rfl⟩, ⟨_, asks_hostDoes (idle [] 0 0) _, by decide, by decide⟩,
   ⟨_, asks_hostDoes (flight .shl [0x11#8] 0 0) _, by decide, rfl⟩⟩

theorem witness_BufLaneOrder :
    (∃ s, hostDoes s (.read 0x1004#13 4) ∧ (0x1004#13).toNat = 0x1000 + 4 ∧ 4 + 3 < s.maxLen.toNat ∧ s.busy = false) ∧
    (∃ s, hostDoes s (.write 0x1004#13 4 0x01020304#32) ∧ 4 + 3 < s.maxLen.toNat ∧ s.busy = false) ∧
    (∃ s, hostDoes s (.read 0x1007#13 1) ∧ (0x1007#13).toNat = 0x1000 + (4 + 3) ∧ 4 + 3 < s.maxLen.toNat ∧ s.busy = false) :=
  ⟨⟨_, asks_hostDoes (idle [] 0 0) _, by decide, by decide, rfl⟩, ⟨_, asks_hostDoes (idle [] 0 0) _, by decide, rfl⟩,
   ⟨_, asks_hostDoes (idle [] 0 0) _, by decide, by decide, rfl⟩⟩

/-- One transaction for each cause: a size, a register by a byte, a misaligned register, a misaligned BUF word, the ends of the
unmapped hole, the end of BUF, BUF and COUNT while BUSY = 1. -/
theorem witness_BusErrorCauses :
    (∃ s, hostDoes s (.read 0x1000#13 2)) ∧ (∃ s, hostDoes s (.write 0x008#13 1 1#32)) ∧ (∃ s, hostDoes s (.read 0x01A#13 4)) ∧
    (∃ s, hostDoes s (.read 0x1002#13 4) ∧ 0x1000 ≤ (0x1002#13).toNat) ∧
    (∃ s, hostDoes s (.read 0x001C#13 4) ∧ 0x001C ≤ (0x001C#13).toNat) ∧
    (∃ s, hostDoes s (.write 0x0FFF#13 1 1#32) ∧ (0x0FFF#13).toNat ≤ 0x0FFF) ∧
    (∃ s, hostDoes s (.read 0x1008#13 4) ∧ 0x1000 + s.maxLen.toNat = (0x1008#13).toNat) ∧
    (∃ s, hostDoes s (.read 0x1000#13 1) ∧ s.busy = true) ∧ (∃ s, hostDoes s (.write 0x008#13 4 5#32) ∧ s.busy = true) :=
  ⟨⟨_, asks_hostDoes (idle [] 0 0) _⟩, ⟨_, asks_hostDoes (idle [] 0 0) _⟩, ⟨_, asks_hostDoes (idle [] 0 0) _⟩,
   ⟨_, asks_hostDoes (idle [] 0 0) _, by decide⟩, ⟨_, asks_hostDoes (idle [] 0 0) _, by decide⟩,
   ⟨_, asks_hostDoes (idle [] 0 0) _, by decide⟩, ⟨_, asks_hostDoes (idle [] 0 0) _, by decide⟩,
   ⟨_, asks_hostDoes (flight .shl [0x11#8] 0 0) _, rfl⟩, ⟨_, asks_hostDoes (flight .shl [0x11#8] 0 0) _, rfl⟩⟩

theorem witness_ErrorResponseChangesNothing :
    ∃ s, hostDoes s (.read 0x1002#13 4) ∧ isBusError (busRead 0x1002#13 4 s) = true :=
  ⟨_, asks_hostDoes (idle [] 0 0) _, by decide⟩

/-- A read that is repeated, a word presented, a LEN write, a STATUS write, and a BUF write that is repeated. -/
theorem witness_SideEffectsOfTransactions :
    (∃ s u, hostDoes s (.read 0x1000#13 1) ∧
      u = { s with pending := u.pending, schedule := u.schedule, responses := u.responses } ∧
      hostDoes u (.read 0x1000#13 1) ∧ u ≠ s) ∧
    (∃ s, presents s 6#32) ∧
    (∃ s, hostDoes s (.write 0x010#13 4 8#32) ∧ s.busy = false) ∧
    (∃ s, hostDoes s (.write 0x004#13 4 1#32)) ∧
    (∃ s t, BlockInv s ∧ hostDoes s (.write 0x1004#13 4 1#32) ∧ step s = .next t ∧ hostDoes t (.write 0x1004#13 4 1#32)) :=
  ⟨⟨asks (idle [0x11#8] 0 0) (.read 0x1000#13 1), asks (respond (.write .okay) (idle [0x11#8] 0 0)) (.read 0x1000#13 1),
     ⟨rfl, rfl⟩, rfl, ⟨rfl, rfl⟩, by decide⟩,
   ⟨_, asks_presents (idle [0x11#8] 1 8) _ rfl⟩, ⟨_, asks_hostDoes (idle [] 0 0) _, rfl⟩,
   ⟨_, asks_hostDoes (idle [] 0 0) _⟩,
   ⟨{ idle [0x11#8] 0 0 with pending := [.write 0x1004#13 4 1#32, .write 0x1004#13 4 1#32], schedule := [.host, .host] }, _,
     ⟨by decide, by decide, by decide, by decide, by decide⟩, ⟨rfl, rfl⟩, rfl, ⟨rfl, rfl⟩⟩⟩

theorem witness_BusyHazard :
    (∃ s, hostDoes s (.write 0x000#13 4 2#32) ∧ s.busy = true) ∧
    (∃ s, hostDoes s (.read 0x1007#13 1) ∧ s.busy = true ∧ (0x1007#13).toNat < 0x1000 + s.maxLen.toNat) ∧
    (∃ s, hostDoes s (.write 0x1000#13 4 2#32) ∧ s.busy = true ∧ 0x1000 ≤ (0x1000#13).toNat) ∧
    (∃ s, hostDoes s (.read (registerOffset .status) 4) ∧ s.busy = true) ∧
    (∃ s, hostDoes s (.write 0x018#13 4 2#32) ∧ s.busy = true) :=
  ⟨⟨_, asks_hostDoes (flight .shl [0x11#8] 0 0) _, rfl⟩, ⟨_, asks_hostDoes (flight .shl [0x11#8] 0 0) _, rfl, by decide⟩,
   ⟨_, asks_hostDoes (flight .shl [0x11#8] 0 0) _, rfl, by decide⟩, ⟨_, asks_hostDoes (flight .shl [0x11#8] 0 0) _, rfl⟩,
   ⟨_, asks_hostDoes (flight .shl [0x11#8] 0 0) _, rfl⟩⟩

theorem witness_UndutifulTransactionIsRefused :
    (∃ s, hostDoes s (.write 0x008#13 4 5#32) ∧ keepsDuty s = false) ∧
    (∃ s, hostDoes s (.read 0x1000#13 1) ∧ keepsDuty s = false) :=
  ⟨⟨_, asks_hostDoes (flight .shl [0x11#8] 0 0) _, by decide⟩, ⟨_, asks_hostDoes (flight .shl [0x11#8] 0 0) _, by decide⟩⟩

end Sys2Proof.Tests
end

section
/-!
PROOFS. The block invariant holds at reset and every step keeps it (00_scope.md R6, 10_state.md R32, R33, R35): one lemma per state
operation, then one per layer of the step (engine, bus, host).
-/

namespace Sys2Proof.Machine

variable {s t : State}

/-! ## The invariant of an idle block and its updates -/

/-- With no command in flight the invariant asks only for the ranges of LEN and BUF. -/
theorem BlockInv.of_idle (h : BlockInv s) (hidle : t.busy = false) (hmax : t.maxLen = s.maxLen)
    (hlen : t.len.toNat ≤ s.maxLen.toNat) (hwf : memoryWf t.buf) (hcap : ∀ c ∈ t.buf, c.1 < s.maxLen.toNat) : BlockInv t where
  capacity := hmax ▸ h.capacity
  lenInCapacity := hmax ▸ hlen
  bufCanonical := hwf
  bufInCapacity := hmax ▸ hcap
  inFlight hbusy := by simp [hidle] at hbusy

/-- Host writes of registers and rejections leave LEN's range and BUF as they are. -/
theorem BlockInv.of_idle_same_buf (h : BlockInv s) (hidle : t.busy = false) (hmax : t.maxLen = s.maxLen)
    (hlen : t.len.toNat ≤ s.maxLen.toNat) (hbuf : t.buf = s.buf) : BlockInv t :=
  h.of_idle hidle hmax hlen (hbuf ▸ h.bufCanonical) (hbuf ▸ h.bufInCapacity)

theorem BlockInv.setCount (h : BlockInv s) (hidle : s.busy = false) (v : Word) : BlockInv (setCount v s) :=
  h.of_idle_same_buf hidle rfl h.lenInCapacity rfl

theorem BlockInv.setWindow (h : BlockInv s) (hidle : s.busy = false) (v : Word) : BlockInv (setWindow v s) :=
  h.of_idle_same_buf hidle rfl h.lenInCapacity rfl

/-- A LEN that is bound fits MAX_LEN, so its 13-bit field holds the whole value (10_state.md R32). -/
theorem BlockInv.writeLen (h : BlockInv s) (hidle : s.busy = false) (v : Word) : BlockInv (writeLen v s) := by
  unfold Machine.writeLen
  split
  · next hle =>
    have hfits : v.toNat < 2 ^ 13 := by have := h.capacity.2; omega
    have hlen : (v.setWidth 13).toNat ≤ s.maxLen.toNat := by
      rw [BitVec.toNat_setWidth, Nat.mod_eq_of_lt hfits]; exact hle
    exact h.of_idle_same_buf hidle rfl hlen rfl
  · exact h.of_idle_same_buf hidle rfl h.lenInCapacity rfl

theorem BlockInv.setBufByte (h : BlockInv s) (hidle : s.busy = false) (i : Nat) (hi : i < s.maxLen.toNat) (b : Byte) :
    BlockInv (setBufByte i b s) := by
  refine h.of_idle hidle rfl h.lenInCapacity (memoryWf_writeCell i b _ h.bufCanonical) fun c hc => ?_
  rcases mem_writeCell i b _ c hc with hnew | hold
  · exact hnew ▸ hi
  · exact h.bufInCapacity c hold

theorem BlockInv.writeBufWord (h : BlockInv s) (hidle : s.busy = false) (i : Nat) (v : Word) : BlockInv (writeBufWord i v s) := by
  obtain ⟨hwf, hcap⟩ := writeBufWord_buf_wf i v s h.bufCanonical h.bufInCapacity
  rw [writeBufWord_frame] at hcap ⊢
  exact h.of_idle hidle rfl h.lenInCapacity hwf hcap

theorem BlockInv.raiseCmdError (h : BlockInv s) (hidle : s.busy = false) (e : CmdErr) : BlockInv (raiseCmdError e s) :=
  h.of_idle_same_buf hidle rfl h.lenInCapacity rfl

/-! ## Updates that the invariant does not see, and reset -/

theorem BlockInv.respond (h : BlockInv s) (r : Response) : BlockInv (respond r s) :=
  ⟨h.capacity, h.lenInCapacity, h.bufCanonical, h.bufInCapacity, h.inFlight⟩

theorem BlockInv.popPending (h : BlockInv s) : BlockInv (popPending s) :=
  ⟨h.capacity, h.lenInCapacity, h.bufCanonical, h.bufInCapacity, h.inFlight⟩

theorem BlockInv.popSchedule (h : BlockInv s) : BlockInv (popSchedule s) :=
  ⟨h.capacity, h.lenInCapacity, h.bufCanonical, h.bufInCapacity, h.inFlight⟩

theorem BlockInv.takeReset (h : BlockInv s) : BlockInv (takeReset s) :=
  h.of_idle rfl rfl (by simp) (by simp [memoryWf]) (by simp)

/-! ## The command cycle -/

/-- An accepted command meets the clause on a command in flight: acceptance writes no register that the checks or the latch are taken
from (40_command_cycle.md R104). -/
theorem BlockInv.latchCommand (h : BlockInv s) (i : Instr) (hvalid : operandError i s = none) :
    BlockInv (latchCommand (acceptedLatch i s) s) where
  capacity := h.capacity
  lenInCapacity := h.lenInCapacity
  bufCanonical := h.bufCanonical
  bufInCapacity := h.bufInCapacity
  inFlight _ :=
    ⟨rfl, (operandError_congr i _ s rfl rfl rfl rfl).trans hvalid, acceptedLatch_congr i s _ rfl rfl rfl⟩

theorem BlockInv.acceptCommand (h : BlockInv s) (hidle : s.busy = false) (i : Instr) : BlockInv (acceptCommand i s) := by
  rcases acceptCommand_cases i s with ⟨e, -, -, hreject⟩ | ⟨hvalid, haccept⟩
  · exact hreject ▸ h.raiseCmdError hidle e
  · exact haccept ▸ h.latchCommand i hvalid

/-- LENL of a command in flight is LEN. -/
theorem BlockInv.lenl_eq (h : BlockInv s) (hbusy : s.busy = true) : s.latch.lenl = s.len.toNat := by
  obtain ⟨-, -, hlatch⟩ := h.inFlight hbusy
  rw [hlatch]; rfl

/-- A completion stores LENL = LEN bytes, so it stays within MAX_LEN, and it ends the flight. -/
theorem BlockInv.complete (h : BlockInv s) (hbusy : s.busy = true) (c : Bool) (S : Bits) :
    BlockInv (clearBusy (setCarry c (storeBits s.latch.lenl S s))) := by
  refine h.of_idle rfl rfl h.lenInCapacity (memoryWf_writeCells _ _ _ h.bufCanonical) fun cell hcell => ?_
  rcases mem_writeCells _ _ _ cell hcell with hnew | hold
  · exact Nat.lt_of_lt_of_le (h.lenl_eq hbusy ▸ hnew) h.lenInCapacity
  · exact h.bufInCapacity cell hold

/-! ## Outcomes -/

/-- If the outcome is a next state, that state meets the invariant. -/
def AnswersInv (o : Host.Outcome State Fault Refusal) : Prop := ∀ t, o = .next t → BlockInv t

theorem answersInv_next (h : BlockInv t) : AnswersInv (.next t) := by
  rintro _ ⟨⟩
  exact h

theorem AnswersInv.mapNext {f : State → State} (hf : ∀ u, BlockInv u → BlockInv (f u)) {o : Host.Outcome State Fault Refusal}
    (ho : AnswersInv o) : AnswersInv (mapNext f o) := by
  cases o with
  | next u => exact answersInv_next (hf u (ho u rfl))
  | fault r => exact nomatch r
  | refused r => rintro t ⟨⟩

theorem BlockInv.exec (h : BlockInv s) (i : Instr) : AnswersInv (exec i s) := by
  rcases exec_cases i s with ⟨hidle, he⟩ | ⟨-, -, he⟩ | ⟨hbusy, -, S, c, -, -, he⟩ <;> rw [he]
  · exact answersInv_next (h.acceptCommand hidle i)
  · exact answersInv_next h
  · exact answersInv_next (h.complete hbusy c S)

theorem BlockInv.presentWord (h : BlockInv s) (hidle : s.busy = false) (v : Word) : AnswersInv (presentWord v s) := by
  rcases presentWord_idle v s hidle with ⟨-, -, hp⟩ | ⟨i, -, hp⟩ <;> rw [hp]
  · exact answersInv_next (h.raiseCmdError hidle .illegalCommand)
  · exact answersInv_next (h.acceptCommand hidle i)

/-- A bus write that does anything to the block finds it idle; all others only respond (70_reset_and_hazards.md R240). -/
theorem BlockInv.busWrite (h : BlockInv s) (off : Offset) (n : Nat) (v : Word) : AnswersInv (busWrite off n v s) := by
  rcases busWrite_cases off n v s with
    hw | ⟨-, hw⟩ | ⟨hidle, -, ⟨-, hw⟩ | ⟨-, hw⟩ | ⟨-, hw⟩ | ⟨-, hw⟩ | ⟨i, -, -, hw⟩⟩ | ⟨hidle, -, i, -, hi, hw⟩ <;> rw [hw]
  · exact answersInv_next (h.respond _)
  · exact answersInv_next (h.respond _)
  · exact answersInv_next ((h.setCount hidle v).respond _)
  · exact answersInv_next ((h.setWindow hidle v).respond _)
  · exact answersInv_next ((h.writeLen hidle v).respond _)
  · exact (h.presentWord hidle v).mapNext fun _ hu => hu.respond _
  · exact answersInv_next ((h.writeBufWord hidle i v).respond _)
  · exact answersInv_next ((h.setBufByte hidle i hi _).respond _)

theorem BlockInv.hostMove (h : BlockInv s) : AnswersInv (hostMove s) := by
  rcases hostMove_cases s with
    ⟨-, hm⟩ | ⟨off, n, -, -, hm⟩ | ⟨off, n, v, -, -, hm⟩ | ⟨-, -, ⟨-, hm⟩ | ⟨-, hm⟩⟩ <;> rw [hm]
  · exact answersInv_next h
  · exact answersInv_next (h.respond _).popPending
  · exact (h.busWrite off n v).mapNext fun _ hu => hu.popPending
  · exact answersInv_next (h.respond _)
  · exact answersInv_next (h.respond _).popPending

theorem BlockInv.step (h : BlockInv s) : AnswersInv (step s) := by
  rcases step_cases s with ⟨-, hs⟩ | ⟨-, -, hs⟩ | ⟨-, -, hs⟩ | ⟨-, hs⟩ <;> rw [hs]
  · exact answersInv_next h.takeReset.popSchedule
  · exact (h.exec _).mapNext fun _ hu => hu.popSchedule
  · exact answersInv_next h.popSchedule
  · exact h.hostMove.mapNext fun _ hu => hu.popSchedule

/-! ## The obligations -/

/-- Settles O3: whoever takes the step (platform, engine or host), the invariant is kept. -/
theorem stepKeepsInvariant : Obligations.StepKeepsInvariant := fun _ t h hstep => h.step t hstep

/-- The open parameter MAX_LEN is in its range: it is one more than a number below 4096 (00_scope.md R6). -/
theorem maxLen_range : 1 ≤ Config.maxLen.toNat ∧ Config.maxLen.toNat ≤ 4096 := by
  have hlt := Config.maxLenLessOne.isLt
  have hval : Config.maxLen.toNat = Config.maxLenLessOne.val + 1 := by
    rw [Config.maxLen, BitVec.toNat_ofNat, Nat.mod_eq_of_lt (by omega)]
  omega

/-- Settles O2: MAX_LEN is in its range, and LEN = 0, the empty BUF and BUSY = 0 meet the rest. -/
theorem resetMeetsInvariant : Obligations.ResetMeetsInvariant where
  capacity := maxLen_range
  lenInCapacity := Nat.zero_le _
  bufCanonical := List.Pairwise.nil
  bufInCapacity _ hc := nomatch hc
  inFlight hbusy := nomatch hbusy

end Sys2Proof.Machine
end

section
/-!
PROOFS. The registers by name (10_state.md R23 to R32): a 4-byte transaction at a register's own offset is a read or a write of that
register, and each register's rule is then its arm of `readRegister` or `writeRegister`. Also what reset leaves in each of them (R38).
-/

namespace Sys2Proof.Machine

variable {s : State} {r : Register} {v : Word}

/-! ## Transactions at a register's own offset -/

/-- A 4-byte read of a register, at any time. -/
theorem step_of_registerRead (h : hostDoes s (.read (registerOffset r) 4)) :
    step s = .next (hostDone (.read .okay (.word (readRegister r s))) s) := by
  rw [step_of_read s _ _ h, busRead, target_registerOffset]

/-- A 4-byte write of a register that is refused while a command is in flight (70_reset_and_hazards.md R240). -/
theorem step_of_refusedWrite (h : hostDoes s (.write (registerOffset r) 4 v)) (hbusy : s.busy = true)
    (hr : refusedWhileBusy r = true) : step s = .next (hostDone (.write .error) s) := by
  rw [step_of_write s _ _ _ h, busWrite, target_registerOffset]
  simp only [hbusy, hr, Bool.and_self, if_true]
  rfl

/-- A 4-byte write of a register that is taken. -/
theorem step_of_registerWrite (h : hostDoes s (.write (registerOffset r) 4 v)) (htaken : (s.busy && refusedWhileBusy r) = false) :
    step s = mapNext (hostDone (.write .okay)) (writeRegister r v s) := by
  rw [step_of_write s _ _ _ h, busWrite, target_registerOffset]
  simp only [htaken, Bool.false_eq_true, if_false]
  cases writeRegister r v s <;> rfl

/-- A write of a register that is refused while BUSY = 1, and else has one next state. -/
theorem step_of_hazardWrite (h : hostDoes s (.write (registerOffset r) 4 v)) (hr : refusedWhileBusy r = true) {t : State}
    (hw : writeRegister r v s = .next t) :
    step s = if s.busy = true then .next (hostDone (.write .error) s) else .next (hostDone (.write .okay) t) := by
  split
  · next hbusy => exact step_of_refusedWrite h hbusy hr
  · next hidle => rw [step_of_registerWrite h (by simp [hidle]), hw, mapNext_next]

/-- A write of a register that ignores writes: STATUS, ID or CFG (20_memory.md R59). -/
theorem step_of_ignoredWrite (h : hostDoes s (.write (registerOffset r) 4 v)) (hr : refusedWhileBusy r = false) :
    step s = .next (hostDone (.write .okay) s) := by
  rw [step_of_registerWrite h (by rw [hr, Bool.and_false])]
  cases r with
  | status | id | cfg => rfl
  | cmd | count | window | len => cases hr

/-! ## The LEN write -/

/-- MAX_LEN is a 13-bit number, so a value up to MAX_LEN loses nothing in LEN's 13 bits (10_state.md R32). -/
theorem toNat_lenField (h : v.toNat ≤ s.maxLen.toNat) : (v.setWidth 13).toNat = v.toNat := by
  rw [BitVec.toNat_setWidth, Nat.mod_eq_of_lt (Nat.lt_of_le_of_lt h s.maxLen.isLt)]

theorem writeLen_of_le (h : v.toNat ≤ s.maxLen.toNat) : writeLen v s = bindLen (v.setWidth 13) s := if_pos h

theorem writeLen_of_gt (h : s.maxLen.toNat < v.toNat) : writeLen v s = unbind s := if_neg (Nat.not_le.mpr h)

/-- An idle block takes a LEN write. -/
theorem step_of_lenWrite (h : hostDoes s (.write 0x010#13 4 v)) (hidle : s.busy = false) :
    step s = .next (hostDone (.write .okay) (writeLen v s)) :=
  step_of_registerWrite (r := .len) h (by rw [hidle, Bool.false_and])

/-- Settles O42: a LEN write is `bindLen` or `unbind` by the comparison with MAX_LEN, and refused while BUSY = 1. -/
theorem lenRegister : Obligations.LenRegister := by
  refine ⟨fun s v h hidle => ⟨fun hle => ?_, fun hgt => ?_⟩, fun s v h hbusy => ?_, fun s h => ?_, rfl⟩
  · have hlen := toNat_lenField hle
    refine ⟨_, step_of_lenWrite h hidle, ?_⟩
    rw [writeLen_of_le hle]
    refine ⟨rfl, hlen, hlen.trans_le hle, ?_⟩
    rintro rfl
    rfl
  · rw [step_of_lenWrite h hidle, writeLen_of_gt hgt]
    rfl
  · exact step_of_refusedWrite (r := .len) h hbusy rfl
  · exact step_of_registerRead (r := .len) h

/-! ## The other registers -/

/-- Settles O43: both registers store the whole value and are refused while BUSY = 1. -/
theorem countAndWindowRegisters : Obligations.CountAndWindowRegisters :=
  ⟨fun _ _ h => step_of_hazardWrite (r := .count) h rfl rfl, fun _ _ h => step_of_hazardWrite (r := .window) h rfl rfl,
    fun _ h => step_of_registerRead (r := .count) h, fun _ h => step_of_registerRead (r := .window) h⟩

/-- A 13-bit field read as a word: the field in bits 12:0. -/
theorem extractLsb'_low_setWidth (m : BitVec 13) : (m.setWidth 32).extractLsb' 0 13 = m := by
  rw [BitVec.extractLsb'_setWidth_of_le (by decide), BitVec.extractLsb'_eq_self]

/-- A 13-bit field read as a word: 0 in bits 31:13. -/
theorem extractLsb'_high_setWidth (m : BitVec 13) : (m.setWidth 32).extractLsb' 13 19 = 0#19 := by
  ext i hi
  simp

/-- Settles O44: ID reads its constant, CFG reads MAX_LEN, and both ignore writes. -/
theorem idAndCfgRegisters : Obligations.IdAndCfgRegisters := by
  refine ⟨fun s h => step_of_registerRead (r := .id) h, by decide, by decide, fun s h => ?_, fun s v off hoff h => ?_⟩
  · exact ⟨_, step_of_registerRead (r := .cfg) h, extractLsb'_low_setWidth _, extractLsb'_high_setWidth _⟩
  · rcases hoff with rfl | rfl
    · exact step_of_ignoredWrite (r := .id) h rfl
    · exact step_of_ignoredWrite (r := .cfg) h rfl

/-- The fields of the STATUS word (10_state.md R24) and its reserved bits (R34). -/
theorem statusWord_fields (s : State) :
    (statusWord s).getLsbD 0 = s.busy ∧ (statusWord s).getLsbD 1 = s.carry ∧ (statusWord s).getLsbD 2 = s.bound ∧
      (statusWord s).getLsbD 3 = false ∧ (statusWord s).extractLsb' 4 3 = errCode s.err ∧
      (statusWord s).extractLsb' 7 25 = 0#25 := by
  unfold statusWord
  generalize s.busy = busy, s.carry = carry, s.bound = bound, errCode s.err = code
  revert busy carry bound code
  decide

/-- Settles O45: CMD reads 0, STATUS reads its fields and ignores writes. -/
theorem cmdAndStatusReads : Obligations.CmdAndStatusReads :=
  ⟨fun _ h => step_of_registerRead (r := .cmd) h,
    fun s h => ⟨statusWord s, step_of_registerRead (r := .status) h, statusWord_fields s⟩,
    fun _ _ h => step_of_ignoredWrite (r := .status) h rfl⟩

/-- Settles O1: every field is set by the definition of reset; CFG reads the open parameter, which is in its range. -/
theorem resetState : Obligations.ResetState := by
  refine ⟨rfl, rfl, rfl, rfl, rfl, rfl, rfl, rfl, rfl, rfl, ⟨Config.maxLen.toNat, maxLen_range.1, maxLen_range.2, ?_, rfl⟩,
    fun _ => rfl⟩
  exact BitVec.toNat_setWidth_of_le (by decide)

end Sys2Proof.Machine
end

section
/-!
PROOFS. The latch (10_state.md R35): the ranges of a command in flight, and that the latch of an idle block is not observable.
-/

namespace Sys2Proof.Machine

variable {s t : State}

/-! ## The ranges of an accepted latch -/

/-- A valid window, or the whole buffer, has at most the buffer's bits. -/
theorem windowInEffect_le_bitLength {i : Instr} (hvalid : operandError i s = none) : windowInEffect i s ≤ bitLength s := by
  obtain ⟨-, -, hwindow⟩ := (operandError_eq_none_iff i s).mp hvalid
  unfold windowInEffect
  split
  · next hw => have := hwindow hw; omega
  · exact le_rfl

theorem normalise_zero_period (i : Instr) (n : Nat) : normalise i n 0 = 0 := by simp [normalise]

theorem normalise_lt_period (i : Instr) (n : Nat) {period : Nat} (h : 0 < period) : normalise i n period < period := by
  unfold normalise
  split
  · exact h
  · rw [if_neg h.ne']
    exact Nat.mod_lt n h

/-- Settles O24: the latch of a command in flight is the one its valid registers say, a window has at most 8 x MAX_LEN bits, and KL is
a remainder modulo the window. -/
theorem inFlightLatchBounds : Obligations.InFlightLatchBounds := by
  intro s h hbusy
  obtain ⟨-, hvalid, hlatch⟩ := h.inFlight hbusy
  obtain ⟨hbound, -, -⟩ := (operandError_eq_none_iff _ s).mp hvalid
  have hlenl := h.lenl_eq hbusy
  have hwl : s.latch.wl = windowInEffect s.latch.opl s := congrArg Latch.wl hlatch
  have hkl : s.latch.kl = normalise s.latch.opl (signed32 s.count).toNat s.latch.wl := by
    rw [hwl]
    exact congrArg Latch.kl hlatch
  have hwindow : s.latch.wl ≤ 8 * s.len.toNat := hwl.trans_le (windowInEffect_le_bitLength hvalid)
  have hempty : s.latch.wl = 0 → s.latch.kl = 0 := fun hw => by rw [hkl, hw, normalise_zero_period]
  have hremainder : 0 < s.latch.wl → s.latch.kl < s.latch.wl := fun hw => hkl.trans_lt (normalise_lt_period _ _ hw)
  have hlen := h.lenInCapacity
  have hcap := h.capacity.2
  refine ⟨hbound, ?_, by omega, hlenl, by omega, hempty, hremainder⟩
  rcases Nat.eq_zero_or_pos s.latch.wl with hw | hw
  · rw [hempty hw]; decide
  · have := hremainder hw; omega

/-! ## Two states that differ in the latch -/

/-- OPL, KL, WL, LENL <- l. -/
def setLatch (l : Latch) (s : State) : State := { s with latch := l }

/-- The two states differ at most in the latch, and not even there while a command is in flight. -/
def SameButIdleLatch (s t : State) : Prop := s = setLatch s.latch t ∧ (s.busy = true → t.latch = s.latch)

/-- Both outcomes are next, with states that differ at most in the latch of an idle block. -/
def AnswersSameButLatch (o o' : Host.Outcome State Fault Refusal) : Prop :=
  ∃ t t', o = .next t ∧ o' = .next t' ∧ SameButIdleLatch t t'

theorem SameButIdleLatch.refl (s : State) : SameButIdleLatch s s := ⟨rfl, fun _ => rfl⟩

theorem sameButIdleLatch_setLatch (hidle : s.busy = false) (l : Latch) : SameButIdleLatch s (setLatch l s) :=
  ⟨rfl, fun hbusy => by rw [hidle] at hbusy; cases hbusy⟩

theorem answersSameButLatch_next (h : SameButIdleLatch s t) : AnswersSameButLatch (.next s) (.next t) := ⟨s, t, rfl, rfl, h⟩

/-- An update of an idle block that neither reads nor writes the latch. -/
theorem answersSameButLatch_commute {f : State → State} {l : Latch} (hf : f (setLatch l s) = setLatch l (f s))
    (hidle : (f s).busy = false) : AnswersSameButLatch (.next (f s)) (.next (f (setLatch l s))) :=
  answersSameButLatch_next (hf ▸ sameButIdleLatch_setLatch hidle l)

/-- The bookkeeping after a move reads and writes neither BUSY nor the latch. -/
theorem AnswersSameButLatch.mapNext {o o' : Host.Outcome State Fault Refusal} (h : AnswersSameButLatch o o') {f : State → State}
    (hf : ∀ l u, f (setLatch l u) = setLatch l (f u)) (hlatch : ∀ u, (f u).latch = u.latch)
    (hbusy : ∀ u, (f u).busy = u.busy) : AnswersSameButLatch (mapNext f o) (mapNext f o') := by
  obtain ⟨t, t', rfl, rfl, ht, hflight⟩ := h
  refine answersSameButLatch_next ⟨?_, fun hb => ?_⟩
  · rw [hlatch, ← hf, ← ht]
  · rw [hlatch, hlatch, hflight (hbusy t ▸ hb)]

/-! ## What the latch of an idle block is read by: nothing -/

theorem writeLen_setLatch (v : Word) (l : Latch) (s : State) : writeLen v (setLatch l s) = setLatch l (writeLen v s) := by
  rw [writeLen, writeLen, apply_ite (setLatch l)]
  rfl

theorem writeLane_setLatch (i : Nat) (b : Byte) (l : Latch) (s : State) :
    writeLane i b (setLatch l s) = setLatch l (writeLane i b s) := by
  rw [writeLane, writeLane, apply_ite (setLatch l)]
  rfl

theorem writeBufWord_setLatch (i : Nat) (v : Word) (l : Latch) (s : State) :
    writeBufWord i v (setLatch l s) = setLatch l (writeBufWord i v s) := by
  simp only [writeBufWord, writeLane_setLatch]

@[simp] theorem writeLen_busy (v : Word) (s : State) : (writeLen v s).busy = s.busy := by
  unfold writeLen; split <;> rfl

@[simp] theorem writeBufWord_busy (i : Nat) (v : Word) (s : State) : (writeBufWord i v s).busy = s.busy := by
  rw [writeBufWord_frame]

/-- A rejection keeps the latch; an acceptance overwrites it with what the registers say (40_command_cycle.md R104). -/
theorem acceptCommand_hides_latch (i : Instr) (hidle : s.busy = false) (l : Latch) :
    AnswersSameButLatch (.next (acceptCommand i s)) (.next (acceptCommand i (setLatch l s))) := by
  have herror : operandError i (setLatch l s) = operandError i s := operandError_congr i _ s rfl rfl rfl rfl
  have hlatch : acceptedLatch i (setLatch l s) = acceptedLatch i s := acceptedLatch_congr i _ s rfl rfl rfl
  simp only [acceptCommand, herror, hlatch]
  cases operandError i s with
  | some e => exact answersSameButLatch_commute (f := raiseCmdError e) rfl hidle
  | none => exact answersSameButLatch_next (SameButIdleLatch.refl _)

theorem presentWord_hides_latch (v : Word) (hidle : s.busy = false) (l : Latch) :
    AnswersSameButLatch (presentWord v s) (presentWord v (setLatch l s)) := by
  unfold presentWord
  cases decode v with
  | illegal why => exact answersSameButLatch_commute (f := raiseCmdError .illegalCommand) rfl hidle
  | command i =>
    simp only [exec_idle i s hidle, exec_idle i (setLatch l s) hidle]
    exact acceptCommand_hides_latch i hidle l

theorem writeRegister_hides_latch (r : Register) (v : Word) (hidle : s.busy = false) (l : Latch) :
    AnswersSameButLatch (writeRegister r v s) (writeRegister r v (setLatch l s)) := by
  cases r with
  | cmd => exact presentWord_hides_latch v hidle l
  | status | id | cfg => exact answersSameButLatch_commute (f := id) rfl hidle
  | count => exact answersSameButLatch_commute (f := setCount v) rfl hidle
  | window => exact answersSameButLatch_commute (f := setWindow v) rfl hidle
  | len => exact answersSameButLatch_commute (writeLen_setLatch v l s) ((writeLen_busy v s).trans hidle)

theorem busWrite_hides_latch (off : Offset) (n : Nat) (v : Word) (hidle : s.busy = false) (l : Latch) :
    AnswersSameButLatch (busWrite off n v s) (busWrite off n v (setLatch l s)) := by
  have htarget : target (setLatch l s) off n = target s off n := rfl
  have hidle' : (setLatch l s).busy = false := hidle
  simp only [busWrite, htarget, hidle, hidle', Bool.false_and, Bool.false_eq_true, if_false]
  cases target s off n with
  | reg r => exact (writeRegister_hides_latch r v hidle l).mapNext (fun _ _ => rfl) (fun _ => rfl) fun _ => rfl
  | bufByte i => exact answersSameButLatch_commute (f := fun u => respond _ (setBufByte i _ u)) rfl hidle
  | bufWord i =>
    have hword : AnswersSameButLatch (.next (writeBufWord i v s)) (.next (writeBufWord i v (setLatch l s))) :=
      answersSameButLatch_commute (writeBufWord_setLatch i v l s) ((writeBufWord_busy i v s).trans hidle)
    exact hword.mapNext (fun _ _ => rfl) (fun _ => rfl) fun _ => rfl
  | nothing => exact answersSameButLatch_commute (f := respond (.write .error)) rfl hidle

/-- A read's response does not depend on the latch, so only the write of a word can write the latch. -/
theorem hostMove_hides_latch (hidle : s.busy = false) (l : Latch) :
    AnswersSameButLatch (hostMove s) (hostMove (setLatch l s)) := by
  have hpending : (setLatch l s).pending = s.pending := rfl
  have hidle' : (setLatch l s).busy = false := hidle
  have hread : ∀ off n, busRead off n (setLatch l s) = busRead off n s := fun _ _ => rfl
  simp only [hostMove, hpending, hidle, hidle', hread, Bool.false_eq_true, if_false]
  cases s.pending with
  | nil => exact answersSameButLatch_commute (f := id) rfl hidle
  | cons op rest =>
    cases op with
    | read off n => exact answersSameButLatch_commute (f := fun u => popPending (respond _ u)) rfl hidle
    | write off n v => exact (busWrite_hides_latch off n v hidle l).mapNext (fun _ _ => rfl) (fun _ => rfl) fun _ => rfl
    | waitIdle => exact answersSameButLatch_commute (f := fun u => popPending (respond _ u)) rfl hidle

/-- The engine reads the latch only while BUSY = 1, and a reset overwrites it with the free draws of that reset. -/
theorem move_hides_latch (a : Agent) (hidle : s.busy = false) (l : Latch) :
    AnswersSameButLatch (move a s) (move a (setLatch l s)) := by
  cases a with
  | host => exact hostMove_hides_latch hidle l
  | engine =>
    have hidle' : (setLatch l s).busy = false := hidle
    simp only [move, engineMove, hidle, hidle', Bool.false_eq_true, if_false]
    exact answersSameButLatch_commute (f := id) rfl hidle
  | platform => exact answersSameButLatch_next (SameButIdleLatch.refl _)

/-- Settles O26: the same agent moves, and its move hides the latch. -/
theorem idleLatchIsHidden : Obligations.IdleLatchIsHidden := by
  intro s l hidle
  obtain ⟨t, t', ht, ht', heq, hflight⟩ :=
    (move_hides_latch (nextAgent s) hidle l).mapNext (f := popSchedule) (fun _ _ => rfl) (fun _ => rfl) fun _ => rfl
  exact ⟨t, t', ht, ht', heq, hflight⟩

end Sys2Proof.Machine
end

section
/-!
PROOFS. A command and the state around it: what no command writes (10_state.md R22, R39), and that its result is a function of its
operands and of the active bytes alone (R37).
-/

namespace Sys2Proof.Machine

variable {i : Instr} {s s' : State}

/-! ## The frame of a command -/

/-- A command writes BUSY, CARRY, ERR, BUF and the latch, and nothing else. -/
theorem exec_frame (i : Instr) (s : State) :
    ∃ t, exec i s = .next t ∧
      t = { s with busy := t.busy, carry := t.carry, err := t.err, buf := t.buf, latch := t.latch } := by
  rcases exec_cases i s with ⟨-, he⟩ | ⟨-, -, he⟩ | ⟨-, -, S, c, -, -, he⟩
  · rcases acceptCommand_cases i s with ⟨e, -, -, ha⟩ | ⟨-, ha⟩ <;> exact ⟨_, he, by rw [ha]; rfl⟩
  · exact ⟨_, he, rfl⟩
  · exact ⟨_, he, rfl⟩

/-- Settles O23: none of these fields is among those a command writes. -/
theorem commandsKeepOperandRegisters : Obligations.CommandsKeepOperandRegisters := by
  intro i s
  obtain ⟨t, he, ht⟩ := exec_frame i s
  refine ⟨t, he, ?_⟩
  rw [ht]
  exact ⟨rfl, rfl, rfl, rfl, rfl, rfl, rfl, rfl, rfl⟩

/-! ## Completion of any command -/

/-- The one-bit shift of a shift in flight. -/
def shiftStep (i : Instr) : Bits → Bits × Bool :=
  match i with
  | .shl => shl1
  | .shr => shr1
  | .rol => fun S => (S, false)
  | .ror => fun S => (S, false)
  | .rolw => fun S => (S, false)
  | .rorw => fun S => (S, false)

/-- A shift in flight: completion. -/
theorem exec_shift (hbusy : s.busy = true) (hi : s.latch.opl = i) (hs : readsCount i = false) :
    exec i s = .next (completeShift (shiftStep i) s) := by
  cases i with
  | shl => exact exec_shl s hbusy hi
  | shr => exact exec_shr s hbusy hi
  | rol | ror | rolw | rorw => cases hs

/-- The string that the completion of a command in flight stores (40_command_cycle.md R106). -/
def completedBits (l : Latch) (S : Bits) : Bits :=
  if readsCount l.opl then Nat.iterate (rotationStep l.opl l.wl) l.kl S else (shiftStep l.opl S).1

/-- CARRY after the completion of a command in flight: the carry of a shift, and kept by a rotation. -/
def completedCarry (l : Latch) (S : Bits) (carry : Bool) : Bool :=
  if readsCount l.opl then carry else (shiftStep l.opl S).2

/-- The completion of any command, as a function of the latch and of the active string. -/
theorem exec_inFlight (hbusy : s.busy = true) (hi : s.latch.opl = i) :
    exec i s = .next (clearBusy (setCarry (completedCarry s.latch (activeBits s.latch.lenl s) s.carry)
      (storeBits s.latch.lenl (completedBits s.latch (activeBits s.latch.lenl s)) s))) := by
  subst hi
  unfold completedCarry completedBits
  cases hr : readsCount s.latch.opl with
  | true => exact exec_rotation _ s hbusy rfl hr
  | false => exact exec_shift hbusy rfl hr

/-! ## A command presented to an idle block and run to its end -/

/-- The state after a command that was accepted with the latch `l` and completed. -/
def ranWith (l : Latch) (s : State) : State :=
  clearBusy (setCarry (completedCarry l (activeBits l.lenl s) s.carry)
    (storeBits l.lenl (completedBits l (activeBits l.lenl s)) (latchCommand l s)))

theorem runCommand_of_rejected (hidle : s.busy = false) {e : CmdErr} (hreject : operandError i s = some e) :
    runCommand i s = .next (raiseCmdError e s) := by
  simp [runCommand, exec_idle i s hidle, acceptCommand, hreject, hidle]

theorem runCommand_of_accepted (hidle : s.busy = false) (hvalid : operandError i s = none) :
    runCommand i s = .next (ranWith (acceptedLatch i s) s) := by
  simp only [runCommand, exec_idle i s hidle, acceptCommand, hvalid, latchCommand_busy, if_true]
  exact exec_inFlight rfl rfl

/-- Equal bytes are equal bit strings. -/
theorem activeBits_eq_of_bytes {n : Nat} (h : ∀ j < n, bufByte s j = bufByte s' j) : activeBits n s = activeBits n s' := by
  refine List.map_congr_left fun k hk => ?_
  rw [bitAt, bitAt, h (k / 8) (by have := List.mem_range.mp hk; omega)]

theorem bufByte_ranWith (l : Latch) (s : State) {j : Nat} (hj : j < l.lenl) :
    bufByte (ranWith l s) j = byteOfBits (completedBits l (activeBits l.lenl s)) j := by
  simp [ranWith, bufByte_storeBits, hj]

theorem ranWith_carry_of_shift {l : Latch} (s : State) (hs : readsCount l.opl = false) :
    (ranWith l s).carry = (shiftStep l.opl (activeBits l.lenl s)).2 := by
  simp [ranWith, completedCarry, hs]

/-- Settles O27: the checks and the latch are the same in both states, so both reject with one code, or both complete from the same
latch and the same active string. -/
theorem resultDependsOnlyOnOperands : Obligations.ResultDependsOnlyOnOperands := by
  intro i s s' hidle hidle' hbound hcount hwindow hlen hbytes
  have herror : operandError i s = operandError i s' := operandError_congr i s s' hbound hcount hwindow hlen
  have hlatch : acceptedLatch i s = acceptedLatch i s' := acceptedLatch_congr i s s' hcount hwindow hlen
  cases he : operandError i s with
  | some e =>
    have hne : e ≠ .none := by
      rcases acceptCommand_cases i s with ⟨e', he', hne, -⟩ | ⟨hvalid, -⟩
      · rwa [Option.some.inj (he.symm.trans he')]
      · cases he.symm.trans hvalid
    exact ⟨_, _, runCommand_of_rejected hidle he, runCommand_of_rejected hidle' (herror ▸ he), rfl, hidle, hidle', hbytes,
      fun _ hnone => absurd hnone hne⟩
  | none =>
    have hbits : activeBits s.len.toNat s = activeBits s.len.toNat s' := activeBits_eq_of_bytes hbytes
    refine ⟨_, _, runCommand_of_accepted hidle he, runCommand_of_accepted hidle' (herror ▸ he), rfl, rfl, rfl, ?_, ?_⟩
    · intro j hj
      rw [← hlatch, bufByte_ranWith _ s hj, bufByte_ranWith _ s' hj]
      exact congrArg (fun S => byteOfBits (completedBits (acceptedLatch i s) S) j) hbits
    · intro hshift _
      have hs : readsCount i = false := by rcases hshift with rfl | rfl <;> rfl
      rw [← hlatch, ranWith_carry_of_shift s hs, ranWith_carry_of_shift s' hs]
      exact congrArg (fun S => (shiftStep i S).2) hbits

end Sys2Proof.Machine
end

section
/-!
PROOFS. Who writes which field of STATUS (10_state.md R39): each agent's turn, by what it does to BUSY, CARRY, BOUND and ERR.
-/

namespace Sys2Proof

/-- Of the eight words with RSV = 0, each that selects a command is that command's word. -/
theorem fields_eq_encode_of_decode (mode : BitVec 2) (dir : BitVec 1) (i : Instr)
    (h : decode (0#29 ++ mode ++ dir) = .command i) : 0#29 ++ mode ++ dir = encode i := by
  revert mode dir
  cases i <;> decide

/-- A word that selects a command is that command's word (30_encoding.md R81, R82). -/
theorem eq_encode_of_decode {v : Word} {i : Instr} (h : decode v = .command i) : v = encode i := by
  have hrsv : rsvField v = 0#29 := by
    by_contra hne
    simp [decode, hne] at h
  have hv : v = 0#29 ++ modeField v ++ dirField v := hrsv ▸ word_eq_fields v
  rw [hv] at h ⊢
  exact fields_eq_encode_of_decode _ _ i h

namespace Machine

variable {s t : State}

/-- What a step that is no reset may do to the fields of STATUS (10_state.md R39). -/
structure StatusRules (s t : State) : Prop where
  busy : t.busy ≠ s.busy →
    (s.busy = false ∧ t.err = .none ∧ ∃ i, presents s (encode i) ∧ t.latch.opl = i) ∨ (s.busy = true ∧ nextAgent s = .engine)
  carry : t.carry ≠ s.carry → s.busy = true ∧ nextAgent s = .engine ∧ (s.latch.opl = .shl ∨ s.latch.opl = .shr)
  bound : t.bound ≠ s.bound → s.busy = false ∧ ∃ v, hostDoes s (.write 0x010#13 4 v)
  err : t.err ≠ s.err → ∃ v, presents s v

/-- The step answers a next state that keeps the rules. -/
def AnswersStatusRules (s : State) (o : Host.Outcome State Fault Refusal) : Prop := ∃ t, o = .next t ∧ StatusRules s t

theorem StatusRules.of_same (hbusy : t.busy = s.busy) (hcarry : t.carry = s.carry) (hbound : t.bound = s.bound)
    (herr : t.err = s.err) : StatusRules s t :=
  ⟨fun h => absurd hbusy h, fun h => absurd hcarry h, fun h => absurd hbound h, fun h => absurd herr h⟩

/-- A word presented to CMD: rejected, or accepted with ERR <- 0. -/
theorem statusRules_presentWord {v : Word} (h : presents s v) :
    ∃ t, presentWord v s = .next t ∧ StatusRules s (hostDone (.write .okay) t) := by
  have hreject : ∀ e, StatusRules s (hostDone (.write .okay) (raiseCmdError e s)) := fun e =>
    ⟨fun hb => absurd rfl hb, fun hc => absurd rfl hc, fun hb => absurd rfl hb, fun _ => ⟨v, h⟩⟩
  rcases presentWord_idle v s h.2 with ⟨-, -, hp⟩ | ⟨i, hdecode, hp⟩
  · exact ⟨_, hp, hreject _⟩
  · rcases acceptCommand_cases i s with ⟨e, -, -, ha⟩ | ⟨-, ha⟩ <;> rw [ha] at hp
    · exact ⟨_, hp, hreject e⟩
    · exact ⟨_, hp, fun _ => .inl ⟨h.2, rfl, i, eq_encode_of_decode hdecode ▸ h, rfl⟩, fun hc => absurd rfl hc,
        fun hb => absurd rfl hb, fun _ => ⟨v, h⟩⟩

/-- A LEN write to an idle block writes LEN and BOUND. -/
theorem statusRules_lenWrite {v : Word} (h : hostDoes s (.write 0x010#13 4 v)) (hidle : s.busy = false) :
    StatusRules s (hostDone (.write .okay) (writeLen v s)) := by
  rcases Nat.lt_or_ge s.maxLen.toNat v.toNat with hgt | hle
  · rw [writeLen_of_gt hgt]
    exact ⟨fun hb => absurd rfl hb, fun hc => absurd rfl hc, fun _ => ⟨hidle, v, h⟩, fun he => absurd rfl he⟩
  · rw [writeLen_of_le hle]
    exact ⟨fun hb => absurd rfl hb, fun hc => absurd rfl hc, fun _ => ⟨hidle, v, h⟩, fun he => absurd rfl he⟩

/-- A write of BUF alone. -/
theorem statusRules_bufWrite {r : Response} (ht : t = { s with buf := t.buf }) : StatusRules s (hostDone r t) := by
  rw [ht]
  exact .of_same rfl rfl rfl rfl

/-- A host write: only a LEN write to an idle block writes BOUND, and only a word presented to CMD the other fields. -/
theorem statusRules_write {off : Offset} {n : Nat} {v : Word} (h : hostDoes s (.write off n v)) :
    AnswersStatusRules s (step s) := by
  rw [step_of_write s off n v h]
  rcases busWrite_cases off n v s with
    hw | ⟨-, hw⟩ | ⟨hidle, rfl, ⟨-, hw⟩ | ⟨-, hw⟩ | ⟨rfl, hw⟩ | ⟨rfl, hw⟩ | ⟨i, -, -, hw⟩⟩ | ⟨-, -, i, -, -, hw⟩ <;> rw [hw]
  · exact ⟨_, rfl, .of_same rfl rfl rfl rfl⟩
  · exact ⟨_, rfl, .of_same rfl rfl rfl rfl⟩
  · exact ⟨_, rfl, .of_same rfl rfl rfl rfl⟩
  · exact ⟨_, rfl, .of_same rfl rfl rfl rfl⟩
  · exact ⟨_, rfl, statusRules_lenWrite h hidle⟩
  · obtain ⟨t, ht, hrules⟩ := statusRules_presentWord (s := s) (v := v) ⟨h, hidle⟩
    rw [ht]
    exact ⟨_, rfl, hrules⟩
  · exact ⟨_, rfl, statusRules_bufWrite (t := writeBufWord i v s) (writeBufWord_frame i v s)⟩
  · exact ⟨_, rfl, .of_same rfl rfl rfl rfl⟩

/-- A host turn: reads, WAIT_IDLE and idle turns change no field of STATUS. -/
theorem statusRules_host (hagent : nextAgent s = .host) : AnswersStatusRules s (step s) := by
  rcases hostMove_cases s with
    ⟨-, hm⟩ | ⟨off, n, -, -, hm⟩ | ⟨off, n, v, rest, hp, -⟩ | ⟨-, -, ⟨-, hm⟩ | ⟨-, hm⟩⟩
  case inr.inr.inl => exact statusRules_write (off := off) (n := n) (v := v) ⟨hagent, by rw [hp]; rfl⟩
  all_goals
    rw [step_of_host s hagent, hm]
    exact ⟨_, rfl, .of_same rfl rfl rfl rfl⟩

/-- The commands without a count are the two shifts. -/
theorem eq_shl_or_shr {i : Instr} (h : readsCount i = false) : i = .shl ∨ i = .shr := by
  cases i with
  | shl => exact .inl rfl
  | shr => exact .inr rfl
  | rol | ror | rolw | rorw => cases h

/-- The engine's turn with a command in flight: only BUSY, and CARRY by a shift. -/
theorem statusRules_engine (hagent : nextAgent s = .engine) (hbusy : s.busy = true) :
    AnswersStatusRules s (mapNext popSchedule (exec s.latch.opl s)) := by
  rw [exec_inFlight hbusy rfl, mapNext_next]
  refine ⟨_, rfl, fun _ => .inr ⟨hbusy, hagent⟩, fun hcarry => ⟨hbusy, hagent, ?_⟩, fun hb => absurd rfl hb, fun he => absurd rfl he⟩
  refine eq_shl_or_shr (Bool.eq_false_iff.mpr fun hr => hcarry ?_)
  exact if_pos hr

/-- Settles O46: by the agent that takes the step. -/
theorem statusFieldWriters : Obligations.StatusFieldWriters := by
  intro s
  rcases step_cases s with ⟨ha, hs⟩ | ⟨ha, hbusy, hs⟩ | ⟨-, -, hs⟩ | ⟨ha, -⟩
  · exact ⟨_, hs, .inl ha⟩
  · obtain ⟨t, ht, h⟩ := statusRules_engine ha hbusy
    exact ⟨t, hs.trans ht, .inr ⟨h.busy, h.carry, h.bound, h.err⟩⟩
  · exact ⟨_, hs, .inr ⟨fun h => absurd rfl h, fun h => absurd rfl h, fun h => absurd rfl h, fun h => absurd rfl h⟩⟩
  · obtain ⟨t, ht, h⟩ := statusRules_host ha
    exact ⟨t, ht, .inr ⟨h.busy, h.carry, h.bound, h.err⟩⟩

end Machine

end Sys2Proof
end

section
/-!
PROOFS. The host bus by offset (20_memory.md R52 to R56): which offset and size reaches a register, bytes of BUF or nothing, and the
lanes of a 4-byte BUF transaction.
-/

namespace Sys2Proof.Machine

variable {s : State} {off : Offset} {i k n : Nat} {v : Word}

/-! ## What an offset and a size reach -/

theorem inBuf_of_lt (hi : i < s.maxLen.toNat) : inBuf s (0x1000 + i) = true := by
  simp [inBuf, bufBase, hi]

theorem target_byte (hoff : off.toNat = 0x1000 + i) (hi : i < s.maxLen.toNat) : target s off 1 = .bufByte i := by
  simp [target, inBuf_of_lt hi, hoff, bufBase]

theorem target_word (hoff : off.toNat = 0x1000 + i) (hi : i < s.maxLen.toNat) (halign : i % 4 = 0) :
    target s off 4 = .bufWord i := by
  simp [target, inBuf_of_lt hi, hoff, bufBase, halign]

/-- The registers lie at the multiples of 4 up to 0x18 (20_memory.md R53). -/
theorem registerOffset_toNat (r : Register) : (registerOffset r).toNat ≤ 0x18 ∧ (registerOffset r).toNat % 4 = 0 := by
  cases r <;> decide

/-- Every multiple of 4 up to 0x1B is the offset of a register. -/
theorem exists_registerOffset (hle : off.toNat ≤ 0x1B) (halign : off.toNat % 4 = 0) : ∃ r, off = registerOffset r := by
  have hoff : off = BitVec.ofNat 13 (4 * (off.toNat / 4)) := by
    rw [Nat.mul_div_cancel' (Nat.dvd_of_mod_eq_zero halign), BitVec.ofNat_toNat, BitVec.setWidth_eq]
  have hquot : off.toNat / 4 ≤ 6 := by omega
  rw [hoff]
  interval_cases off.toNat / 4
  exacts [⟨.cmd, rfl⟩, ⟨.status, rfl⟩, ⟨.count, rfl⟩, ⟨.window, rfl⟩, ⟨.len, rfl⟩, ⟨.id, rfl⟩, ⟨.cfg, rfl⟩]

/-- Among the registers' offsets only a 4-byte transaction at a multiple of 4 reaches anything (20_memory.md R54). -/
theorem target_low_eq_nothing (hle : off.toNat ≤ 0x1B) (hbad : n = 1 ∨ off.toNat % 4 ≠ 0) : target s off n = .nothing := by
  rcases target_cases s off n with ht | ⟨i, -, -, hoff, -⟩ | ⟨i, -, -, hoff, -⟩ | ⟨r, -, hn, rfl⟩
  · exact ht
  · omega
  · omega
  · have := (registerOffset_toNat r).2; omega

/-- From 0x1000 on, a misaligned word and everything at or past MAX_LEN reaches nothing (20_memory.md R55). -/
theorem target_high_eq_nothing (hoff : off.toNat = 0x1000 + i) (hbad : (n = 4 ∧ i % 4 ≠ 0) ∨ s.maxLen.toNat ≤ i) :
    target s off n = .nothing := by
  rcases target_cases s off n with ht | ⟨j, -, hn, hj, hlt⟩ | ⟨j, -, hn, hj, hlt, halign⟩ | ⟨r, -, -, rfl⟩
  · exact ht
  · omega
  · omega
  · have := (registerOffset_toNat r).1; omega

/-! ## Refused transactions -/

/-- A read or a write of `n` bytes at the offset gets ERROR, reads 0 and changes nothing (20_memory.md R51). -/
def Refuses (s : State) (off : Offset) (n : Nat) (v : Word) : Prop :=
  (hostDoes s (.read off n) → step s = .next (hostDone (.read .error (zeroData n)) s)) ∧
  (hostDoes s (.write off n v) → step s = .next (hostDone (.write .error) s))

theorem refuses_of_bus (hread : busRead off n s = .read .error (zeroData n)) (hwrite : busWrite off n v s = refuseWrite s) :
    Refuses s off n v :=
  ⟨fun h => by rw [step_of_read s off n h, hread], fun h => by rw [step_of_write s off n v h, hwrite]; rfl⟩

theorem refuses_of_nothing (ht : target s off n = .nothing) : Refuses s off n v :=
  refuses_of_bus (by rw [busRead, ht]) (by rw [busWrite, ht])

/-- Every BUF transaction is refused while a command is in flight (70_reset_and_hazards.md R240). -/
theorem refuses_of_busy (hoff : off.toNat = 0x1000 + i) (hbusy : s.busy = true) : Refuses s off n v := by
  rcases target_cases s off n with ht | ⟨j, ht, -⟩ | ⟨j, ht, -⟩ | ⟨r, -, -, rfl⟩
  · exact refuses_of_nothing ht
  · exact refuses_of_bus (by simp [busRead, ht, hbusy]) (by simp [busWrite, ht, hbusy])
  · exact refuses_of_bus (by simp [busRead, ht, hbusy]) (by simp [busWrite, ht, hbusy])
  · have := (registerOffset_toNat r).1; omega

/-! ## BUF transactions of an idle block -/

@[simp] theorem bufByte_hostDone (r : Response) (s : State) (j : Nat) : bufByte (hostDone r s) j = bufByte s j := rfl

theorem step_of_byteRead (hoff : off.toNat = 0x1000 + i) (hi : i < s.maxLen.toNat) (hidle : s.busy = false)
    (h : hostDoes s (.read off 1)) : step s = .next (hostDone (.read .okay (.byte (bufByte s i))) s) := by
  rw [step_of_read s off 1 h, busRead, target_byte hoff hi]
  simp [hidle]

theorem step_of_byteWrite (hoff : off.toNat = 0x1000 + i) (hi : i < s.maxLen.toNat) (hidle : s.busy = false)
    (h : hostDoes s (.write off 1 v)) : step s = .next (hostDone (.write .okay) (setBufByte i (v.setWidth 8) s)) := by
  rw [step_of_write s off 1 v h, busWrite, target_byte hoff hi]
  simp [hidle, hostDone]

theorem step_of_wordRead (hoff : off.toNat = 0x1000 + i) (hi : i < s.maxLen.toNat) (halign : i % 4 = 0) (hidle : s.busy = false)
    (h : hostDoes s (.read off 4)) : step s = .next (hostDone (.read .okay (.word (readBufWord s i))) s) := by
  rw [step_of_read s off 4 h, busRead, target_word hoff hi halign]
  simp [hidle]

/-! ## The lanes of a word -/

/-- Lane k of a word: lane 0 is the most significant byte (20_memory.md R56). -/
abbrev wordLane (v : Word) (k : Nat) : Byte := v.extractLsb' (8 * (3 - k)) 8

/-- Four bytes joined, lane by lane. -/
theorem wordLane_append (f : Nat → Byte) (hk : k < 4) : wordLane (f 0 ++ f 1 ++ f 2 ++ f 3) k = f k := by
  ext j hj
  interval_cases k <;> grind

/-- Bit 31 - j of a word is in lane j / 8. -/
theorem getMsbD_eq_wordLane (v : Word) {j : Nat} (hj : j < 32) : v.getMsbD j = (wordLane v (j / 8)).getMsbD (j % 8) := by
  have hindex : 31 - j = 8 * (3 - j / 8) + (7 - j % 8) := by omega
  have hlane : j % 8 < 8 := Nat.mod_lt _ (by decide)
  have hbit : 7 - j % 8 < 8 := by omega
  simp [BitVec.getMsbD, hj, hlane, hindex, hbit]

/-- Each lane of a 4-byte read is its own byte of BUF, and 0 at or past MAX_LEN. -/
theorem wordLane_readBufWord (s : State) (i : Nat) (hk : k < 4) : wordLane (readBufWord s i) k = readLane s (i + k) :=
  wordLane_append (fun k => readLane s (i + k)) hk

theorem readCell?_writeLane (a i : Nat) (b : Byte) (s : State) :
    readCell? a (writeLane i b s).buf = if a = i ∧ i < s.maxLen.toNat then some b else readCell? a s.buf := by
  unfold writeLane
  split
  · next hi => simp [readCell?_writeCell, hi]
  · next hi => simp [hi]

/-- BUF after a 4-byte write: each lane stores its own byte below MAX_LEN, and nothing else is written (20_memory.md R55, R56). -/
theorem readCell?_writeBufWord (i : Nat) (v : Word) (s : State) (j : Nat) :
    readCell? j (writeBufWord i v s).buf =
      if i ≤ j ∧ j < i + 4 ∧ j < s.maxLen.toNat then some (wordLane v (j - i)) else readCell? j s.buf := by
  simp only [writeBufWord, readCell?_writeLane, writeLane_maxLen]
  by_cases hin : i ≤ j ∧ j < i + 4
  · obtain ⟨k, rfl⟩ : ∃ k, j = i + k := ⟨j - i, by omega⟩
    have hk : k < 4 := by omega
    interval_cases k <;> simp [wordLane]
  · rw [if_neg (by omega), if_neg (by omega), if_neg (by omega), if_neg (by omega), if_neg (by omega)]

theorem bufByte_writeBufWord (i : Nat) (v : Word) (s : State) (j : Nat) :
    bufByte (writeBufWord i v s) j =
      if i ≤ j ∧ j < i + 4 ∧ j < s.maxLen.toNat then wordLane v (j - i) else bufByte s j := by
  have hresets : (writeBufWord i v s).resets = s.resets := by rw [writeBufWord_frame]
  rw [bufByte, readCell?_writeBufWord, hresets]
  split <;> rfl

theorem readLane_of_lt (hi : i < s.maxLen.toNat) : readLane s i = bufByte s i := if_pos hi

/-- A 4-byte read below MAX_LEN is 32 consecutive positions of the bit string, most significant first (20_memory.md R56). -/
theorem readBufWord_getMsbD (hi : i + 3 < s.maxLen.toNat) {j : Nat} (hj : j < 32) :
    (readBufWord s i).getMsbD j = bitAt s (8 * i + j) := by
  have hposition : 8 * (i + j / 8) + j % 8 = 8 * i + j := by omega
  rw [getMsbD_eq_wordLane _ hj, wordLane_readBufWord s i (by omega), readLane_of_lt (by omega),
    bufByte_getMsbD s _ _ (Nat.mod_lt j (by decide)), hposition]

/-- A host operation that wrote BUF alone. -/
theorem hostDone_of_bufWrite {t : State} (r : Response) (ht : t = { s with buf := t.buf }) :
    hostDone r t = hostDone r { s with buf := (hostDone r t).buf } :=
  congrArg (hostDone r) ht

theorem step_of_wordWrite (hoff : off.toNat = 0x1000 + i) (hi : i < s.maxLen.toNat) (halign : i % 4 = 0) (hidle : s.busy = false)
    (h : hostDoes s (.write off 4 v)) :
    ∃ t, step s = .next t ∧ t = hostDone (.write .okay) { s with buf := t.buf } ∧
      ∀ j, bufByte t j = if i ≤ j ∧ j < i + 4 ∧ j < s.maxLen.toNat then wordLane v (j - i) else bufByte s j := by
  refine ⟨hostDone (.write .okay) (writeBufWord i v s), ?_, hostDone_of_bufWrite _ (writeBufWord_frame i v s), fun j => ?_⟩
  · rw [step_of_write s off 4 v h, busWrite, target_word hoff hi halign]
    simp [hidle, hostDone]
  · rw [bufByte_hostDone, bufByte_writeBufWord]

/-! ## The responses of writes -/

/-- A word presented to CMD and its outcome leave the responses to the bus. -/
theorem presentWord_responses (hidle : s.busy = false) (v : Word) :
    ∃ t, presentWord v s = .next t ∧ t.responses = s.responses := by
  rcases presentWord_idle v s hidle with ⟨-, -, hp⟩ | ⟨i, -, hp⟩
  · exact ⟨_, hp, rfl⟩
  · rcases acceptCommand_cases i s with ⟨e, -, -, ha⟩ | ⟨-, ha⟩ <;> exact ⟨_, hp, by rw [ha]; rfl⟩

theorem writeRegister_responses (hidle : s.busy = false) (r : Register) (v : Word) :
    ∃ t, writeRegister r v s = .next t ∧ t.responses = s.responses := by
  cases r with
  | cmd => exact presentWord_responses hidle v
  | status | id | cfg | count | window => exact ⟨_, rfl, rfl⟩
  | len => exact ⟨_, rfl, by unfold writeLen; split <;> rfl⟩

/-! ## The obligations -/

/-- Settles O55: BASE cancels, and a 13-bit offset is below 0x2000. -/
theorem platformAddressBecomesOffset : Obligations.PlatformAddressBecomesOffset := by
  intro off
  have hrange : off.toNat < 0x2000 := off.isLt
  simp [platformOffset, hrange]

/-- Settles O47: all that is reached at 0x00 to 0x1B is a register, by four bytes at its own offset. -/
theorem registerAccessSizes : Obligations.RegisterAccessSizes := by
  refine fun s off n v hle => ⟨fun hbad => refuses_of_nothing (target_low_eq_nothing hle hbad), ?_⟩
  rintro rfl halign
  obtain ⟨r, rfl⟩ := exists_registerOffset hle halign
  refine ⟨fun h => ⟨_, step_of_registerRead h⟩, fun h hidle => ?_⟩
  obtain ⟨t, hw, hresponses⟩ := writeRegister_responses hidle r v
  refine ⟨_, by rw [step_of_registerWrite h (by rw [hidle, Bool.false_and]), hw, mapNext_next], ?_⟩
  exact congrArg (Response.write .okay :: ·) hresponses

/-- Settles O48: a byte or an aligned word of an idle block below MAX_LEN is reached; everything else is refused. -/
theorem bufTransactions : Obligations.BufTransactions := by
  intro s off i n v hoff
  refine ⟨fun hidle hi => ⟨step_of_byteRead hoff hi hidle, fun h => ?_, fun halign =>
    ⟨fun h => ?_, step_of_wordWrite hoff hi halign hidle⟩⟩, ?_⟩
  · exact ⟨_, step_of_byteWrite hoff hi hidle h, rfl, bufByte_setBufByte i _ s⟩
  · exact ⟨_, step_of_wordRead hoff hi halign hidle h, fun j hj => wordLane_readBufWord s i hj⟩
  · rintro (hbad | hbad | hbusy)
    · exact refuses_of_nothing (target_high_eq_nothing hoff (.inl hbad))
    · exact refuses_of_nothing (target_high_eq_nothing hoff (.inr hbad))
    · exact refuses_of_busy hoff hbusy

/-- Settles O49: each lane of a word that lies below MAX_LEN is one byte of BUF, in the order of the indices. -/
theorem bufLaneOrder : Obligations.BufLaneOrder := by
  intro s off i hoff halign hi hidle
  have hread : ∀ k < 4, wordLane (readBufWord s i) k = bufByte s (i + k) := fun k hk => by
    rw [wordLane_readBufWord s i hk, readLane_of_lt (by omega)]
  refine ⟨fun h => ?_, fun v h => ?_, fun off1 j hoff1 hj h => step_of_byteRead hoff1 (by omega) hidle h⟩
  · exact ⟨_, step_of_wordRead hoff (by omega) halign hidle h, hread 0 (by decide), hread 1 (by decide), hread 2 (by decide),
      hread 3 (by decide), fun j hj => readBufWord_getMsbD hi hj⟩
  · obtain ⟨t, hstep, hframe, hbytes⟩ := step_of_wordWrite hoff (by omega) halign hidle h
    have hlane : ∀ k < 4, bufByte t (i + k) = wordLane v k := fun k hk => by
      rw [hbytes, if_pos (by omega), Nat.add_sub_cancel_left]
    exact ⟨t, hstep, hframe, hlane 0 (by decide), hlane 1 (by decide), hlane 2 (by decide), hlane 3 (by decide)⟩

end Sys2Proof.Machine
end

section
/-!
PROOFS. What the host's turn does to the block (20_memory.md R51, R59, R64): nothing while a command is in flight, nothing with an ERROR
response, nothing by a read, and nothing new by a repeated write other than to CMD.
-/

namespace Sys2Proof.Machine

variable {s t : State} {off : Offset} {n : Nat} {v : Word}

/-! ## A command in flight -/

/-- Every bus write while BUSY = 1 is refused or ignored (70_reset_and_hazards.md R240). -/
theorem busWrite_of_busy (hbusy : s.busy = true) (off : Offset) (n : Nat) (v : Word) :
    ∃ r, busWrite off n v s = .next (respond r s) := by
  rcases busWrite_cases off n v s with hw | ⟨-, hw⟩ | ⟨hidle, -⟩ | ⟨hidle, -⟩
  · exact ⟨_, hw⟩
  · exact ⟨_, hw⟩
  · cases hbusy.symm.trans hidle
  · cases hbusy.symm.trans hidle

/-- Settles O25: whatever operation the host performs, it ends in a response at most. -/
theorem inFlightCommandIsFixed : Obligations.InFlightCommandIsFixed := by
  intro s hbusy hagent
  rw [step_of_host s hagent]
  rcases hostMove_cases s with
    ⟨-, hm⟩ | ⟨off, n, -, -, hm⟩ | ⟨off, n, v, -, -, hm⟩ | ⟨-, -, ⟨-, hm⟩ | ⟨-, hm⟩⟩ <;> rw [hm]
  case inr.inr.inl =>
    obtain ⟨r, hw⟩ := busWrite_of_busy hbusy off n v
    rw [hw]
    exact ⟨_, rfl, rfl⟩
  all_goals exact ⟨_, rfl, rfl⟩

/-! ## The one response of an operation -/

/-- The outcome of a host operation gives one new response, and an ERROR response comes with an unchanged block and the data 0. -/
def AnswersOneResponse (s : State) (o : Host.Outcome State Fault Refusal) : Prop :=
  ∃ t r, o = .next t ∧ t.responses = r :: s.responses ∧
    (isBusError r = true →
      t = hostDone r s ∧ t.err = s.err ∧
      (r = .write .error ∨ r = .read .error (.byte 0#8) ∨ r = .read .error (.word 0#32) ∨ r = .read .error (.other 0)))

theorem answersOneResponse_of_okay {r : Response} (hr : isBusError r = false) (ht : t.responses = r :: s.responses) :
    AnswersOneResponse s (.next t) :=
  ⟨t, r, rfl, ht, fun herror => by cases hr.symm.trans herror⟩

theorem zeroData_cases (n : Nat) : zeroData n = .byte 0#8 ∨ zeroData n = .word 0#32 ∨ zeroData n = .other 0 := by
  unfold zeroData
  split
  · exact .inl rfl
  · split
    · exact .inr (.inl rfl)
    · exact .inr (.inr rfl)

theorem answersOneResponse_read (h : hostDoes s (.read off n)) : AnswersOneResponse s (step s) := by
  rw [step_of_read s off n h]
  rcases busRead_cases off n s with hr | ⟨d, hr⟩ <;> rw [hr]
  · refine ⟨_, _, rfl, rfl, fun _ => ⟨rfl, rfl, .inr ?_⟩⟩
    rcases zeroData_cases n with hz | hz | hz <;> simp [hz]
  · exact answersOneResponse_of_okay rfl rfl

/-- A refused write changes nothing; every other write gets OKAY, a CMD write also when its word is rejected (60_exceptions.md R201). -/
theorem answersOneResponse_write (h : hostDoes s (.write off n v)) : AnswersOneResponse s (step s) := by
  rw [step_of_write s off n v h]
  rcases busWrite_cases off n v s with
    hw | ⟨-, hw⟩ | ⟨hidle, -, ⟨-, hw⟩ | ⟨-, hw⟩ | ⟨-, hw⟩ | ⟨-, hw⟩ | ⟨i, -, -, hw⟩⟩ | ⟨-, -, i, -, -, hw⟩ <;> rw [hw]
  · exact ⟨_, _, rfl, rfl, fun _ => ⟨rfl, rfl, .inl rfl⟩⟩
  · exact answersOneResponse_of_okay rfl rfl
  · exact answersOneResponse_of_okay rfl rfl
  · exact answersOneResponse_of_okay rfl rfl
  · have hlen : (writeLen v s).responses = s.responses := by unfold writeLen; split <;> rfl
    exact answersOneResponse_of_okay rfl (congrArg (Response.write .okay :: ·) hlen)
  · obtain ⟨t, hp, hresponses⟩ := presentWord_responses hidle v
    rw [hp]
    exact answersOneResponse_of_okay rfl (congrArg (Response.write .okay :: ·) hresponses)
  · have hword : (writeBufWord i v s).responses = s.responses := by rw [writeBufWord_frame]
    exact answersOneResponse_of_okay rfl (congrArg (Response.write .okay :: ·) hword)
  · exact answersOneResponse_of_okay rfl rfl

/-- One poll of WAIT_IDLE is a STATUS read, done or not, and gets OKAY. -/
theorem answersOneResponse_waitIdle (h : hostDoes s .waitIdle) : AnswersOneResponse s (step s) := by
  have hread : busRead statusOffset 4 s = .read .okay (.word (statusWord s)) := by
    have ht : target s statusOffset 4 = .reg .status := target_registerOffset s .status
    rw [busRead, ht]
    rfl
  obtain ⟨rest, hp⟩ := pending_of_hostDoes s _ h
  rw [step_of_host s h.1, hostMove, hp]
  simp only [hread]
  split <;> exact answersOneResponse_of_okay rfl rfl

/-- Settles O51: by the kind of operation. -/
theorem errorResponseChangesNothing : Obligations.ErrorResponseChangesNothing := by
  intro s op h
  cases op with
  | read off n => exact answersOneResponse_read h
  | write off n v => exact answersOneResponse_write h
  | waitIdle => exact answersOneResponse_waitIdle h

/-! ## Repeated writes -/

/-- An update of the block by a host write that does nothing new when it is done again, and that neither the host's own fields nor the
choice of what the write reaches depend on. -/
structure Repeatable (f : State → State) : Prop where
  busy : ∀ s, (f s).busy = s.busy
  maxLen : ∀ s, (f s).maxLen = s.maxLen
  hostDone : ∀ r s, f (hostDone r s) = hostDone r (f s)
  again : ∀ s, BlockInv s → f (f s) = f s

theorem repeatable_id : Repeatable id := ⟨fun _ => rfl, fun _ => rfl, fun _ _ => rfl, fun _ _ => rfl⟩

theorem repeatable_setCount (v : Word) : Repeatable (setCount v) :=
  ⟨fun _ => rfl, fun _ => rfl, fun _ _ => rfl, fun _ _ => rfl⟩

theorem repeatable_setWindow (v : Word) : Repeatable (setWindow v) :=
  ⟨fun _ => rfl, fun _ => rfl, fun _ _ => rfl, fun _ _ => rfl⟩

theorem writeLen_maxLen (v : Word) (s : State) : (writeLen v s).maxLen = s.maxLen := by
  unfold writeLen; split <;> rfl

/-- MAX_LEN does not change, so a repeated LEN write compares alike and stores the same. -/
theorem repeatable_writeLen (v : Word) : Repeatable (writeLen v) where
  busy := writeLen_busy v
  maxLen := writeLen_maxLen v
  hostDone r s := by
    rw [writeLen, writeLen, apply_ite (hostDone r)]
    rfl
  again s _ := by
    rcases Nat.lt_or_ge s.maxLen.toNat v.toNat with hgt | hle
    · rw [writeLen_of_gt (s := writeLen v s) (writeLen_maxLen v s ▸ hgt), writeLen_of_gt hgt]
      rfl
    · rw [writeLen_of_le (s := writeLen v s) (writeLen_maxLen v s ▸ hle), writeLen_of_le hle]
      rfl

/-- Storing the byte that BUF already lists changes nothing, in the canonical form. -/
theorem setBufByte_eq_self {i : Nat} {b : Byte} (hwf : memoryWf s.buf) (hlisted : readCell? i s.buf = some b) :
    setBufByte i b s = s := by
  rw [setBufByte, writeCell_of_readCell? i b s.buf hwf hlisted]

theorem repeatable_setBufByte (i : Nat) (b : Byte) : Repeatable (setBufByte i b) where
  busy _ := rfl
  maxLen _ := rfl
  hostDone _ _ := rfl
  again s h :=
    setBufByte_eq_self (memoryWf_writeCell i b s.buf h.bufCanonical) (by simp [readCell?_writeCell])

theorem writeLane_eq_self {i : Nat} {b : Byte} (hwf : memoryWf s.buf)
    (hlisted : i < s.maxLen.toNat → readCell? i s.buf = some b) : writeLane i b s = s := by
  unfold writeLane
  split
  · next hi => exact setBufByte_eq_self hwf (hlisted hi)
  · rfl

theorem writeLane_hostDone (i : Nat) (b : Byte) (r : Response) (s : State) :
    writeLane i b (hostDone r s) = hostDone r (writeLane i b s) := by
  rw [writeLane, writeLane, apply_ite (hostDone r)]
  rfl

theorem writeBufWord_maxLen (i : Nat) (v : Word) (s : State) : (writeBufWord i v s).maxLen = s.maxLen := by
  rw [writeBufWord_frame]

theorem writeBufWord_eq_lanes (i : Nat) (v : Word) (s : State) :
    writeBufWord i v s =
      writeLane (i + 3) (wordLane v 3) (writeLane (i + 2) (wordLane v 2) (writeLane (i + 1) (wordLane v 1)
        (writeLane (i + 0) (wordLane v 0) s))) := rfl

/-- After a 4-byte write BUF lists the byte of each lane below MAX_LEN, so each lane of a repeated write changes nothing. -/
theorem repeatable_writeBufWord (i : Nat) (v : Word) : Repeatable (writeBufWord i v) where
  busy := writeBufWord_busy i v
  maxLen := writeBufWord_maxLen i v
  hostDone r s := by simp only [writeBufWord, writeLane_hostDone]
  again s h := by
    obtain ⟨hwf, -⟩ := writeBufWord_buf_wf i v s h.bufCanonical h.bufInCapacity
    have hlane : ∀ k < 4, writeLane (i + k) (wordLane v k) (writeBufWord i v s) = writeBufWord i v s := fun k hk =>
      writeLane_eq_self hwf fun hi => by
        rw [writeBufWord_maxLen] at hi
        rw [readCell?_writeBufWord, if_pos (by omega), Nat.add_sub_cancel_left]
    rw [writeBufWord_eq_lanes i v (writeBufWord i v s), hlane 0 (by decide), hlane 1 (by decide), hlane 2 (by decide),
      hlane 3 (by decide)]

theorem writeRegister_repeatable {r : Register} (hr : r ≠ .cmd) (v : Word) :
    ∃ f, Repeatable f ∧ ∀ u, writeRegister r v u = .next (f u) := by
  cases r with
  | cmd => exact absurd rfl hr
  | status | id | cfg => exact ⟨id, repeatable_id, fun _ => rfl⟩
  | count => exact ⟨_, repeatable_setCount v, fun _ => rfl⟩
  | window => exact ⟨_, repeatable_setWindow v, fun _ => rfl⟩
  | len => exact ⟨_, repeatable_writeLen v, fun _ => rfl⟩

/-- A write is taken or refused by BUSY; with BUSY fixed it is one repeatable update and one response either way. -/
theorem refusedOr_repeatable {f : State → State} (hf : Repeatable f) (refused : Bool → Bool) (busy : Bool) :
    ∃ r g, Repeatable g ∧ ∀ u : State, u.busy = busy →
      (if refused u.busy then refuseWrite u else .next (respond (.write .okay) (f u))) = .next (respond r (g u)) := by
  cases hrefused : refused busy with
  | true => exact ⟨.write .error, id, repeatable_id, fun u hbusy => by rw [hbusy, hrefused]; rfl⟩
  | false => exact ⟨.write .okay, f, hf, fun u hbusy => by rw [hbusy, hrefused]; rfl⟩

/-- What a transaction reaches depends on MAX_LEN alone. -/
theorem target_congr (hmax : t.maxLen = s.maxLen) (off : Offset) (n : Nat) : target t off n = target s off n := by
  have hin : inBuf t = inBuf s := by funext a; rw [inBuf, inBuf, hmax]
  rw [target, target, hin]

/-- A bus write other than to CMD is one repeatable update and one response, the same in every state with this BUSY and MAX_LEN. -/
theorem busWrite_repeatable (hoff : off ≠ 0x000#13) (s : State) (n : Nat) (v : Word) :
    ∃ r f, Repeatable f ∧
      ∀ u : State, u.busy = s.busy → u.maxLen = s.maxLen → busWrite off n v u = .next (respond r (f u)) := by
  rcases target_cases s off n with ht | ⟨i, ht, -⟩ | ⟨i, ht, -⟩ | ⟨reg, ht, -, rfl⟩
  · exact ⟨.write .error, id, repeatable_id, fun u _ hmax => by rw [busWrite, target_congr hmax, ht]; rfl⟩
  · obtain ⟨r, f, hf, harm⟩ := refusedOr_repeatable (repeatable_setBufByte i (v.setWidth 8)) id s.busy
    exact ⟨r, f, hf, fun u hbusy hmax => by rw [busWrite, target_congr hmax, ht]; exact harm u hbusy⟩
  · obtain ⟨r, f, hf, harm⟩ := refusedOr_repeatable (repeatable_writeBufWord i v) id s.busy
    exact ⟨r, f, hf, fun u hbusy hmax => by rw [busWrite, target_congr hmax, ht]; exact harm u hbusy⟩
  · have hreg : reg ≠ .cmd := by rintro rfl; exact hoff rfl
    obtain ⟨g, hg, hwrite⟩ := writeRegister_repeatable hreg v
    obtain ⟨r, f, hf, harm⟩ := refusedOr_repeatable hg (fun busy => busy && refusedWhileBusy reg) s.busy
    refine ⟨r, f, hf, fun u hbusy hmax => ?_⟩
    rw [busWrite, target_congr hmax, ht]
    simp only [hwrite, mapNext_next]
    exact harm u hbusy

theorem writeLen_bound (v : Word) (s : State) : (writeLen v s).bound = decide (v.toNat ≤ s.maxLen.toNat) := by
  rcases Nat.lt_or_ge s.maxLen.toNat v.toNat with hgt | hle
  · rw [writeLen_of_gt hgt, decide_eq_false (Nat.not_le.mpr hgt)]
    rfl
  · rw [writeLen_of_le hle, decide_eq_true hle]
    rfl

/-- Settles O52: a read's response is a function of the block; the writes are the arms of the bus; and a repeated write finds the same
target and the same update. -/
theorem sideEffectsOfTransactions : Obligations.SideEffectsOfTransactions := by
  refine ⟨fun s off n h => ⟨_, step_of_read s off n h, fun u hu hdo => ?_⟩, step_of_presents, fun s v h hidle => ?_,
    fun s off v hoff h => ?_, fun s off n v hinv hoff h => ?_⟩
  · have hread : busRead off n u = busRead off n s := by rw [hu]; rfl
    rw [step_of_read u off n hdo, hread]
  · exact ⟨_, step_of_lenWrite h hidle, writeLen_bound v s⟩
  · rcases hoff with rfl | rfl | rfl
    · exact step_of_ignoredWrite (r := .status) h rfl
    · exact step_of_ignoredWrite (r := .id) h rfl
    · exact step_of_ignoredWrite (r := .cfg) h rfl
  · obtain ⟨r, f, hf, hwrite⟩ := busWrite_repeatable hoff s n v
    have hstep : ∀ u, u.busy = s.busy → u.maxLen = s.maxLen → hostDoes u (.write off n v) → step u = .next (hostDone r (f u)) :=
      fun u hbusy hmax hdo => by rw [step_of_write u off n v hdo, hwrite u hbusy hmax]; rfl
    refine ⟨_, hstep s rfl rfl h, fun hdo => ⟨_, hstep _ (hf.busy s) (hf.maxLen s) hdo, ?_⟩⟩
    rw [hf.hostDone, hf.again s hinv]
    rfl

end Sys2Proof.Machine
end

section
/-!
PROOFS. The command word (30_encoding.md R80 to R87): the decoder case by case on its fields, decode and encode as inverses, the illegal
words, and the command words that the pseudo-instructions write.
-/

namespace Sys2Proof

variable {v : Word} {i : Instr}

/-! ## The fields of the six command words -/

/-- The six rows of the opcode map, as one statement about any command. -/
theorem commandWordFields (i : Instr) : Laws.CommandWordFields.Statement i := by
  cases i with
  | shl => exact Laws.CommandWordFields.shl
  | shr => exact Laws.CommandWordFields.shr
  | rol => exact Laws.CommandWordFields.rol
  | ror => exact Laws.CommandWordFields.ror
  | rolw => exact Laws.CommandWordFields.rolw
  | rorw => exact Laws.CommandWordFields.rorw

theorem modeField_dirField_encode (i : Instr) : modeField (encode i) = modeOf i ∧ dirField (encode i) = dirOf i := by
  obtain ⟨-, hmode, hdir, -⟩ := commandWordFields i
  exact ⟨hmode, hdir⟩

/-! ## The decoder, by fields -/

/-- DIR is bit 0 of the word. -/
theorem dirField_eq_zero_iff (v : Word) : dirField v = 0#1 ↔ v.getLsbD 0 = false := by
  have hbit : (dirField v).getLsbD 0 = v.getLsbD 0 := by simp [dirField]
  rw [← hbit]
  generalize dirField v = dir
  revert dir
  decide

theorem decode_of_rsv_ne_zero (hrsv : rsvField v ≠ 0#29) : decode v = .illegal .reservedBits := if_pos hrsv

theorem decode_of_mode_zero (hrsv : rsvField v = 0#29) (hmode : modeField v = 0b00#2) : decode v = .illegal .reservedMode := by
  simp [decode, hrsv, hmode]

theorem decode_of_mode_one (hrsv : rsvField v = 0#29) (hmode : modeField v = 0b01#2) :
    decode v = .command (if v.getLsbD 0 = false then .shl else .shr) := by
  simp [decode, hrsv, hmode, dirField_eq_zero_iff, apply_ite Decoded.command]

theorem decode_of_mode_two (hrsv : rsvField v = 0#29) (hmode : modeField v = 0b10#2) :
    decode v = .command (if v.getLsbD 0 = false then .rol else .ror) := by
  simp [decode, hrsv, hmode, dirField_eq_zero_iff, apply_ite Decoded.command]

theorem decode_of_mode_three (hrsv : rsvField v = 0#29) (hmode : modeField v = 0b11#2) :
    decode v = .command (if v.getLsbD 0 = false then .rolw else .rorw) := by
  simp [decode, hrsv, hmode, dirField_eq_zero_iff, apply_ite Decoded.command]

/-! ## Decode and encode -/

theorem decode_encode (i : Instr) : decode (encode i) = .command i := by
  cases i <;> decide

theorem decode_eq_command_iff (v : Word) (i : Instr) : decode v = .command i ↔ v = encode i :=
  ⟨eq_encode_of_decode, fun h => h ▸ decode_encode i⟩

/-- Settles O12: decoding keeps all three fields of the word (`eq_encode_of_decode`), and `decode_encode` is the way back. -/
theorem decodeEncodeAgree : Obligations.DecodeEncodeAgree := decode_eq_command_iff

/-! ## The illegal words -/

/-- A word is illegal by its RSV bits or by its MODE (30_encoding.md R82). -/
theorem decode_eq_illegal_iff (v : Word) :
    (∃ why, decode v = .illegal why) ↔ rsvField v ≠ 0#29 ∨ modeField v = 0b00#2 := by
  by_cases hrsv : rsvField v = 0#29
  · rcases modeField_cases v with hmode | hmode | hmode | hmode
    · simp [hmode, decode_of_mode_zero hrsv hmode]
    · simp [hrsv, hmode, decode_of_mode_one hrsv hmode]
    · simp [hrsv, hmode, decode_of_mode_two hrsv hmode]
    · simp [hrsv, hmode, decode_of_mode_three hrsv hmode]
  · simp [hrsv, decode_of_rsv_ne_zero hrsv]

/-- With RSV = 0, the words with MODE = 00 are 0 and 1. -/
theorem mode_zero_iff (hrsv : rsvField v = 0#29) : modeField v = 0b00#2 ↔ v = 0#32 ∨ v = 1#32 := by
  constructor
  · intro hmode
    have hv := word_eq_fields v
    rw [hrsv, hmode] at hv
    rcases dirField_cases v with hdir | hdir <;> rw [hdir] at hv
    · exact .inl hv
    · exact .inr hv
  · rintro (rfl | rfl) <;> decide

/-- The illegal words written out (30_encoding.md R83). -/
theorem decode_eq_illegal_iff_word (v : Word) :
    (∃ why, decode v = .illegal why) ↔ v = 0#32 ∨ v = 1#32 ∨ rsvField v ≠ 0#29 := by
  rw [decode_eq_illegal_iff, ← or_assoc]
  by_cases hrsv : rsvField v = 0#29
  · simp [hrsv, mode_zero_iff hrsv]
  · simp [hrsv]

/-- The words that no command has are those that the decoder refuses. -/
theorem forall_ne_encode_iff (v : Word) : (∀ i, v ≠ encode i) ↔ ∃ why, decode v = .illegal why := by
  cases hd : decode v with
  | illegal why => simp [← decode_eq_command_iff v, hd]
  | command i => simp [← decode_eq_command_iff v, hd]

/-! ## The obligations on words -/

/-- Settles O10: one lemma for each arm of the decoder. -/
theorem decodeFollowsFields : Obligations.DecodeFollowsFields := fun _ =>
  ⟨fun hrsv => ⟨_, decode_of_rsv_ne_zero hrsv⟩, fun hrsv =>
    ⟨fun hmode => ⟨_, decode_of_mode_zero hrsv hmode⟩, decode_of_mode_one hrsv, decode_of_mode_two hrsv,
      decode_of_mode_three hrsv⟩⟩

/-- Settles O11: the six values are the six encodings. -/
theorem opcodeMapSelectsExactly : Obligations.OpcodeMapSelectsExactly := by
  refine ⟨fun v => ⟨decode_eq_command_iff v .shl, decode_eq_command_iff v .shr, decode_eq_command_iff v .rol,
    decode_eq_command_iff v .ror, decode_eq_command_iff v .rolw, decode_eq_command_iff v .rorw⟩, ?_⟩
  obtain ⟨hshl, hshl'⟩ := modeField_dirField_encode .shl
  obtain ⟨hshr, hshr'⟩ := modeField_dirField_encode .shr
  obtain ⟨hrol, hrol'⟩ := modeField_dirField_encode .rol
  obtain ⟨hror, hror'⟩ := modeField_dirField_encode .ror
  obtain ⟨hrolw, hrolw'⟩ := modeField_dirField_encode .rolw
  obtain ⟨hrorw, hrorw'⟩ := modeField_dirField_encode .rorw
  exact ⟨hshl, hshl', hshr, hshr', hrol, hrol', hror, hror', hrolw, hrolw', hrorw, hrorw'⟩

/-- Settles O13: the three words are encodings. -/
theorem sampleWordsDecode : Obligations.SampleWordsDecode :=
  ⟨decode_encode .shl, decode_encode .ror, decode_encode .rolw⟩

namespace Machine

variable {s : State}

/-- An illegal word presented to an idle block writes ERR and gets OKAY (30_encoding.md R83). -/
theorem step_of_illegalWord {why : IllegalWord} (h : presents s v) (hd : decode v = .illegal why) :
    step s = .next (hostDone (.write .okay) (raiseCmdError .illegalCommand s)) := by
  rw [step_of_presents s v h, presentWord, hd]
  rfl

/-- Settles O14: the words of no command are the illegal ones, and the decoder's refusal raises ILLEGAL_COMMAND. -/
theorem illegalWordRejected : Obligations.IllegalWordRejected := by
  refine ⟨rfl, fun v => (forall_ne_encode_iff v).trans (decode_eq_illegal_iff_word v), fun s v h hword => ?_⟩
  obtain ⟨why, hd⟩ := (decode_eq_illegal_iff_word v).mpr hword
  exact step_of_illegalWord h hd

/-! ## The pseudo-instructions -/

/-- Writing the number of a command word to CMD presents that word. -/
theorem writeRegisterOp_cmd (i : Instr) : writeRegisterOp .cmd (encode i).toNat = .write cmdOffset 4 (encode i) := by
  rw [writeRegisterOp, BitVec.ofInt_natCast, BitVec.ofNat_toNat, BitVec.setWidth_eq]
  rfl

/-- Settles O15: the numbers 2 to 7 of the expansions are those of the six command words. -/
theorem pseudoInstructionsPresentTheirCommand : Obligations.PseudoInstructionsPresentTheirCommand := fun n w =>
  ⟨congrArg ([·, HostOp.waitIdle]) (writeRegisterOp_cmd .shl), congrArg ([·, HostOp.waitIdle]) (writeRegisterOp_cmd .shr),
    congrArg ([writeRegisterOp .count n, ·, HostOp.waitIdle]) (writeRegisterOp_cmd .rol),
    congrArg ([writeRegisterOp .count n, ·, HostOp.waitIdle]) (writeRegisterOp_cmd .ror),
    congrArg ([writeRegisterOp .count n, writeRegisterOp .window w, ·, HostOp.waitIdle]) (writeRegisterOp_cmd .rolw),
    congrArg ([writeRegisterOp .count n, writeRegisterOp .window w, ·, HostOp.waitIdle]) (writeRegisterOp_cmd .rorw)⟩

end Machine

end Sys2Proof
end

section
/-!
PROOFS. The WAIT_IDLE loop (30_encoding.md R87): each turn before its last one uses up a scheduled turn or ends the command in flight, and
none of them starts a command, so the host's turn with BUSY = 0 comes (70_reset_and_hazards.md R246; log 1, 2, 18).
-/

namespace Sys2Proof.Machine

variable {s t : State} {rest : List HostOp}

/-! ## Who moves when the schedule has run out -/

theorem nextAgent_unscheduled (h : s.schedule = []) : nextAgent s = if s.busy then .engine else .host := by
  rw [nextAgent, h]

/-- The platform moves only by the schedule. -/
theorem schedule_ne_nil_of_platform (h : nextAgent s = .platform) : s.schedule ≠ [] := by
  intro hnil
  rw [nextAgent_unscheduled hnil] at h
  split at h <;> cases h

/-- The engine has a turn without a command only by the schedule. -/
theorem schedule_ne_nil_of_idle_engine (h : nextAgent s = .engine) (hidle : s.busy = false) : s.schedule ≠ [] := by
  intro hnil
  rw [nextAgent_unscheduled hnil, hidle] at h
  cases h

/-- The host has a turn while a command is in flight only by the schedule. -/
theorem schedule_ne_nil_of_busy_host (h : nextAgent s = .host) (hbusy : s.busy = true) : s.schedule ≠ [] := by
  intro hnil
  rw [nextAgent_unscheduled hnil, hbusy] at h
  cases h

/-! ## The turns left before the last poll -/

/-- The most turns that can pass before a waiting host polls with BUSY = 0: the scheduled ones, and one for the command in flight. -/
def turnsLeft (s : State) : Nat := s.schedule.length + s.busy.toNat

/-- A scheduled turn that starts no command is one turn less. -/
theorem turnsLeft_lt_of_scheduled (hne : s.schedule ≠ []) (hschedule : t.schedule = s.schedule.tail)
    (hbusy : t.busy = true → s.busy = true) : turnsLeft t < turnsLeft s := by
  have hpos := List.length_pos_iff.mpr hne
  have hle : t.busy.toNat ≤ s.busy.toNat := Bool.toNat_le_toNat hbusy
  rw [turnsLeft, turnsLeft, hschedule, List.length_tail]
  omega

/-- A completion is one turn less, scheduled or not. -/
theorem turnsLeft_lt_of_completion (hbusy : s.busy = true) (hidle : t.busy = false) (hschedule : t.schedule = s.schedule.tail) :
    turnsLeft t < turnsLeft s := by
  rw [turnsLeft, turnsLeft, hschedule, List.length_tail, hbusy, hidle, Bool.toNat_true, Bool.toNat_false]
  omega

/-! ## One turn of a waiting host's machine -/

/-- The operation at the head is done, BUSY = 0, and the newest response is an OKAY read of a word whose bit 0 is 0. -/
structure WaitDone (rest : List HostOp) (t : State) : Prop where
  pending : t.pending = rest
  idle : t.busy = false
  response : ∃ w : Word, t.responses.head? = some (.read .okay (.word w)) ∧ w.getLsbD 0 = false

/-- The operation at the head still waits, with fewer turns left than before. -/
structure StillWaits (s t : State) : Prop where
  pending : t.pending = s.pending
  turns : turnsLeft t < turnsLeft s

/-- A poll of WAIT_IDLE is an OKAY read of STATUS, at any time. -/
theorem busRead_status (s : State) : busRead statusOffset 4 s = .read .okay (.word (statusWord s)) := by
  have ht : target s statusOffset 4 = .reg .status := target_registerOffset s .status
  rw [busRead, ht]
  rfl

theorem step_waitIdle_done (hagent : nextAgent s = .host) (hp : s.pending = .waitIdle :: rest) (hidle : s.busy = false) :
    ∃ t, step s = .next t ∧ WaitDone rest t := by
  refine ⟨hostDone (.read .okay (.word (statusWord s))) s, ?_, ?_, hidle, statusWord s, rfl, ?_⟩
  · simp [step_of_host s hagent, hostMove, hp, hidle, busRead_status, hostDone]
  · exact congrArg List.tail hp
  · obtain ⟨hbit, -⟩ := statusWord_fields s
    exact hbit.trans hidle

theorem step_waitIdle_polls (hagent : nextAgent s = .host) (hp : s.pending = .waitIdle :: rest) (hbusy : s.busy = true) :
    ∃ t, step s = .next t ∧ StillWaits s t := by
  refine ⟨popSchedule (respond (.read .okay (.word (statusWord s))) s), ?_, rfl, ?_⟩
  · simp [step_of_host s hagent, hostMove, hp, hbusy, busRead_status]
  · exact turnsLeft_lt_of_scheduled (schedule_ne_nil_of_busy_host hagent hbusy) rfl id

/-- Every turn while WAIT_IDLE is at the head: the loop ends, or it goes on with fewer turns left. -/
theorem step_of_waitIdle (hp : s.pending = .waitIdle :: rest) : ∃ t, step s = .next t ∧ (WaitDone rest t ∨ StillWaits s t) := by
  rcases step_cases s with ⟨hagent, hs⟩ | ⟨hagent, hbusy, hs⟩ | ⟨hagent, hidle, hs⟩ | ⟨hagent, -⟩
  · exact ⟨_, hs, .inr ⟨rfl, turnsLeft_lt_of_scheduled (schedule_ne_nil_of_platform hagent) rfl fun h => nomatch h⟩⟩
  · rw [exec_inFlight hbusy rfl, mapNext_next] at hs
    exact ⟨_, hs, .inr ⟨rfl, turnsLeft_lt_of_completion hbusy rfl rfl⟩⟩
  · exact ⟨_, hs, .inr ⟨rfl, turnsLeft_lt_of_scheduled (schedule_ne_nil_of_idle_engine hagent hidle) rfl id⟩⟩
  · cases hbusy : s.busy with
    | false =>
      obtain ⟨t, ht, hdone⟩ := step_waitIdle_done hagent hp hbusy
      exact ⟨t, ht, .inl hdone⟩
    | true =>
      obtain ⟨t, ht, hwaits⟩ := step_waitIdle_polls hagent hp hbusy
      exact ⟨t, ht, .inr hwaits⟩

/-! ## The loop -/

/-- By strong induction on the turns left. -/
theorem waitIdle_ends (s : State) (rest : List HostOp) (hp : s.pending = .waitIdle :: rest) :
    ∃ k t, k ≤ turnsLeft s + 1 ∧ Host.Core.run Sys2Proof.core k s = .next t ∧ WaitDone rest t := by
  obtain ⟨t, hs, hdone | hwaits⟩ := step_of_waitIdle hp
  · exact ⟨1, t, Nat.le_add_left 1 _, run_succ_of_step 0 s t hs, hdone⟩
  · have hless := hwaits.turns
    obtain ⟨k, u, hk, hrun, hdone⟩ := waitIdle_ends t rest (hwaits.pending.trans hp)
    exact ⟨k + 1, u, by omega, (run_succ_of_step k s t hs).trans hrun, hdone⟩
termination_by turnsLeft s

/-- Settles O8: the turns left are at most the schedule and one completion. -/
theorem waitIdleEnds : Obligations.WaitIdleEnds := by
  intro s rest hp
  obtain ⟨k, t, hk, hrun, hdone⟩ := waitIdle_ends s rest hp
  obtain ⟨w, hresponse, hbit⟩ := hdone.response
  have hbound : turnsLeft s ≤ s.schedule.length + 1 := Nat.add_le_add_left (Bool.toNat_le _) _
  exact ⟨k, t, w, by omega, hrun, hdone.pending, hdone.idle, hresponse, hbit⟩

end Sys2Proof.Machine
end

section
/-!
PROOFS. The two steps of a command (40_command_cycle.md R100): acceptance inside the CMD write (R101 to R104) and completion at the
engine's turn (R106), each as one next state; and the commands that have nothing to do (R105).
-/

namespace Sys2Proof.Machine

variable {i : Instr} {s : State} {v : Word}

/-! ## The step that runs a command -/

/-- A command's word presented to an idle block runs that command (40_command_cycle.md R101). -/
theorem step_of_command (h : presents s v) (hd : decode v = .command i) :
    step s = mapNext (hostDone (.write .okay)) (exec i s) := by
  rw [step_of_presents s v h, presentWord, hd]

/-- The engine's turn with a command in flight runs that command (40_command_cycle.md R106). -/
theorem step_of_engine (hagent : nextAgent s = .engine) (hbusy : s.busy = true) :
    step s = mapNext popSchedule (exec s.latch.opl s) := by
  rw [step, hagent, move, engineMove, if_pos hbusy]

/-- Settles O16: one step lemma for each of the two agents that run a command. -/
theorem stepRunsDecodedCommand : Obligations.StepRunsDecodedCommand :=
  ⟨fun _ _ _ h hd _ => step_of_command h hd, fun _ => step_of_engine⟩

/-! ## Acceptance -/

/-- A valid command meets an idle block: its latch, ERR <- 0 and BUSY <- 1 (40_command_cycle.md R104). -/
theorem exec_of_valid (hidle : s.busy = false) (hvalid : operandError i s = none) :
    exec i s = .next (latchCommand (acceptedLatch i s) s) := by
  rw [exec_idle i s hidle, acceptCommand, hvalid]

/-- Settles O20: the CMD write runs the command, and a valid command is latched. -/
theorem acceptanceIsOneTransaction : Obligations.AcceptanceIsOneTransaction := by
  intro s v i h hd hvalid
  rw [step_of_command h hd, exec_of_valid h.2 hvalid]
  rfl

/-- The latch of a shift: no count, and the whole buffer (40_command_cycle.md R102, R103). -/
theorem acceptedLatch_shift (hi : i = .shl ∨ i = .shr) (s : State) :
    acceptedLatch i s = ⟨i, 0, 8 * s.len.toNat, s.len.toNat⟩ := by
  rcases hi with rfl | rfl <;> rfl

/-- The latch of a full-buffer rotation: the count modulo 8 x LEN (40_command_cycle.md R102, R103). -/
theorem acceptedLatch_rotation (hi : i = .rol ∨ i = .ror) (s : State) :
    acceptedLatch i s =
      ⟨i, if 8 * s.len.toNat = 0 then 0 else s.count.toInt.toNat % (8 * s.len.toNat), 8 * s.len.toNat, s.len.toNat⟩ := by
  rcases hi with rfl | rfl <;> rfl

/-- The latch of a windowed rotation: the count modulo WINDOW (40_command_cycle.md R102, R103). -/
theorem acceptedLatch_windowed (hi : i = .rolw ∨ i = .rorw) (s : State) :
    acceptedLatch i s =
      ⟨i, if s.window.toInt.toNat = 0 then 0 else s.count.toInt.toNat % s.window.toInt.toNat, s.window.toInt.toNat,
        s.len.toNat⟩ := by
  rcases hi with rfl | rfl <;> rfl

/-- Settles O19: the conditions are the checks that the command's operands have to pass, and the latch is the one of its family. -/
theorem acceptedCommandLatch : Obligations.AcceptedCommandLatch := by
  refine fun s hidle hbound => ⟨fun i hi => ?_, fun i hi hcount => ?_, fun i hi hcount hlow hhigh => ?_⟩
  · have hvalid : operandError i s = none := (operandError_eq_none_iff i s).mpr <| by
      rcases hi with rfl | rfl <;> exact ⟨hbound, nofun, nofun⟩
    rw [exec_of_valid hidle hvalid, acceptedLatch_shift hi]
    rfl
  · have hvalid : operandError i s = none := (operandError_eq_none_iff i s).mpr <| by
      rcases hi with rfl | rfl <;> exact ⟨hbound, fun _ => hcount, nofun⟩
    rw [exec_of_valid hidle hvalid, acceptedLatch_rotation hi]
    rfl
  · have hwindow : signed32 s.window ≤ (bitLength s : Int) := by rw [bitLength]; exact_mod_cast hhigh
    have hvalid : operandError i s = none :=
      (operandError_eq_none_iff i s).mpr ⟨hbound, fun _ => hcount, fun _ => ⟨hlow, hwindow⟩⟩
    rw [exec_of_valid hidle hvalid, acceptedLatch_windowed hi]
    rfl

/-! ## Completion -/

/-- The state after the completion of the command in flight (40_command_cycle.md R106). -/
def completed (s : State) : State :=
  clearBusy (setCarry (completedCarry s.latch (activeBits s.latch.lenl s) s.carry)
    (storeBits s.latch.lenl (completedBits s.latch (activeBits s.latch.lenl s)) s))

theorem exec_completes (hbusy : s.busy = true) (hi : s.latch.opl = i) : exec i s = .next (completed s) :=
  exec_inFlight hbusy hi

theorem completed_frame (s : State) :
    completed s = { s with busy := false, carry := (completed s).carry, buf := (completed s).buf } := rfl

/-- A completion writes no byte at or past LENL (10_state.md R33). -/
theorem bufByte_completed_of_ge {j : Nat} (hj : s.latch.lenl ≤ j) : bufByte (completed s) j = bufByte s j := by
  simp [completed, bufByte_storeBits, Nat.not_lt.mpr hj]

/-- The active positions after a completion. -/
theorem bitAt_completed {k : Nat} (hk : k < 8 * s.latch.lenl) :
    bitAt (completed s) k = (completedBits s.latch (activeBits s.latch.lenl s)).getD k false := by
  simp [completed, bitAt_storeBits _ _ s k hk]

/-- Only the shifts write CARRY (10_state.md R26). -/
theorem completed_carry_of_rotation (hr : readsCount s.latch.opl = true) : (completed s).carry = s.carry := by
  simp [completed, completedCarry, hr]

/-- A shift writes the carry of its one-bit step. -/
theorem completed_carry_of_shift (hs : readsCount s.latch.opl = false) :
    (completed s).carry = (shiftStep s.latch.opl (activeBits s.latch.lenl s)).2 := by
  simp [completed, completedCarry, hs]

/-- The commands other than the two shifts have a count. -/
theorem readsCount_of_ne (hl : i ≠ .shl) (hr : i ≠ .shr) : readsCount i = true := by
  refine Bool.of_not_eq_false fun hc => ?_
  rcases eq_shl_or_shr hc with h | h
  · exact hl h
  · exact hr h

/-- Settles O22: the completed state differs in BUSY, CARRY and the bytes below LENL, and in CARRY for a shift only. -/
theorem completionFrame : Obligations.CompletionFrame := fun s hbusy =>
  ⟨completed s, exec_completes hbusy rfl, completed_frame s, fun _ => bufByte_completed_of_ge,
    fun hl hr => completed_carry_of_rotation (readsCount_of_ne hl hr)⟩

/-! ## Commands with nothing to do -/

/-- A rotation by no step stores the string it found. -/
theorem completedBits_of_kl_zero {l : Latch} (hr : readsCount l.opl = true) (hkl : l.kl = 0) (S : Bits) :
    completedBits l S = S := by
  rw [completedBits, if_pos hr, hkl]
  rfl

/-- Storing the string that is there leaves every byte as it is. -/
theorem sameBuf_completed_of_bits (h : completedBits s.latch (activeBits s.latch.lenl s) = activeBits s.latch.lenl s) :
    sameBuf s (completed s) := by
  intro j
  rcases Nat.lt_or_ge j s.latch.lenl with hj | hj
  · refine bufByte_eq_of_bits _ _ j fun b hb => ?_
    rw [bitAt_completed (by omega), h, activeBits_getD _ _ _ (by omega)]
  · exact (bufByte_completed_of_ge hj).symm

/-- An empty buffer has no byte to store. -/
theorem sameBuf_completed_of_empty (h : s.latch.lenl = 0) : sameBuf s (completed s) := fun j =>
  (bufByte_completed_of_ge (h.trans_le (Nat.zero_le j))).symm

/-- A shift of the empty string carries 0 (41_shift.md R126). -/
theorem shiftStep_empty_carry (i : Instr) : (shiftStep i []).2 = false := by
  cases i <;> rfl

theorem completed_carry_of_empty_shift (hs : readsCount s.latch.opl = false) (h : s.latch.lenl = 0) :
    (completed s).carry = false := by
  have hnil : activeBits s.latch.lenl s = [] := by rw [h]; rfl
  rw [completed_carry_of_shift hs, hnil, shiftStep_empty_carry]

/-- A rotation whose period is 0 has a normalised count of 0 (40_command_cycle.md R102). -/
theorem acceptedLatch_kl_of_wl_zero (h : (acceptedLatch i s).wl = 0) : (acceptedLatch i s).kl = 0 := by
  have hperiod : windowInEffect i s = 0 := h
  rw [acceptedLatch, hperiod, normalise_zero_period]

/-- Settles O21: the acceptance makes no exception, and the completion stores no byte or the string that is there. -/
theorem nothingToDoIsStillAccepted : Obligations.NothingToDoIsStillAccepted := by
  intro s i hidle hvalid hnothing
  refine ⟨_, _, exec_of_valid hidle hvalid, rfl, exec_completes rfl rfl, rfl, ?_, fun hshift hlen => ?_⟩
  · rcases hnothing with hlen | ⟨hl, hr, hzero⟩
    · exact sameBuf_completed_of_empty (s := latchCommand (acceptedLatch i s) s) (congrArg BitVec.toNat hlen)
    · have hkl : (acceptedLatch i s).kl = 0 := hzero.elim id acceptedLatch_kl_of_wl_zero
      exact sameBuf_completed_of_bits (s := latchCommand (acceptedLatch i s) s)
        (completedBits_of_kl_zero (readsCount_of_ne hl hr) hkl _)
  · have hs : readsCount i = false := by rcases hshift with rfl | rfl <;> rfl
    exact completed_carry_of_empty_shift (s := latchCommand (acceptedLatch i s) s) hs (congrArg BitVec.toNat hlen)

end Sys2Proof.Machine
end

section
/-!
PROOFS. The full-buffer rotations (42_rotate.md R141 to R145): the one-bit steps are list rotations, so the loop of KL steps is one
rotation by KL, and ROL and ROR do it to the active bits of BUF.
-/

namespace Sys2Proof.Machine

variable {s : State} {S : Bits} {n k : Nat}

/-! ## The loop of one-bit steps -/

/-- One step to the left is a rotation by one place (42_rotate.md R141). -/
theorem rol1_eq_rotate (S : Bits) : rol1 S = S.rotate 1 := by
  cases S with
  | nil => rfl
  | cons c rest => simp [rol1, shl1]

/-- A step to the left undoes a step to the right. -/
theorem rol1_ror1 (S : Bits) : rol1 (ror1 S) = S := by
  rcases List.eq_nil_or_concat S with rfl | ⟨T, c, rfl⟩
  · rfl
  · simp [rol1_eq_rotate, ror1, shr1]

theorem iterate_rol1 (n : Nat) (S : Bits) : Nat.iterate rol1 n S = S.rotate n := by
  induction n with
  | zero => exact S.rotate_zero.symm
  | succ n ih => rw [Function.iterate_succ_apply', ih, rol1_eq_rotate, List.rotate_rotate]

/-- Steps to the right are undone by as many to the left, so they are a rotation by the rest of the period. -/
theorem iterate_ror1 (hn : n < S.length) : Nat.iterate ror1 n S = S.rotate (S.length - n) := by
  have hinverse : (Nat.iterate ror1 n S).rotate n = S := by
    rw [← iterate_rol1]
    exact Function.LeftInverse.iterate rol1_ror1 n S
  have hrotate := List.rotate_eq_iff.mp hinverse
  rwa [Nat.mod_eq_of_lt hn] at hrotate

/-- Position k of a rotated string. -/
theorem getD_rotate (hk : k < S.length) (n : Nat) : (S.rotate n).getD k false = S.getD ((k + n) % S.length) false := by
  rw [List.getD_eq_getElem?_getD, List.getElem?_rotate hk, ← List.getD_eq_getElem?_getD]

/-- Position k of the active bits rotated by n places. -/
theorem activeBits_rotate_getD {m : Nat} (hk : k < 8 * m) (n : Nat) :
    ((activeBits m s).rotate n).getD k false = bitAt s ((k + n) % (8 * m)) := by
  have hpos : 0 < 8 * m := Nat.zero_lt_of_lt hk
  rw [getD_rotate (by rwa [activeBits_length]), activeBits_length, activeBits_getD _ _ _ (Nat.mod_lt _ hpos)]

/-! ## ROL and ROR -/

/-- A completion that writes no CARRY leaves everything but BUSY and BUF as it is. -/
theorem completed_frame_of_rotation (hr : readsCount s.latch.opl = true) :
    completed s = { s with busy := false, buf := (completed s).buf } := by
  have hcarry := completed_carry_of_rotation hr
  have hframe := completed_frame s
  rwa [hcarry] at hframe

theorem bitAt_completed_rol (hi : s.latch.opl = .rol) (hk : k < 8 * s.latch.lenl) :
    bitAt (completed s) k = bitAt s ((k + s.latch.kl) % (8 * s.latch.lenl)) := by
  have hbits : completedBits s.latch (activeBits s.latch.lenl s) = (activeBits s.latch.lenl s).rotate s.latch.kl := by
    rw [← iterate_rol1, completedBits, hi]
    rfl
  rw [bitAt_completed hk, hbits, activeBits_rotate_getD hk]

theorem bitAt_completed_ror (hi : s.latch.opl = .ror) (hkl : s.latch.kl < 8 * s.latch.lenl) (hk : k < 8 * s.latch.lenl) :
    bitAt (completed s) k = bitAt s ((k + 8 * s.latch.lenl - s.latch.kl) % (8 * s.latch.lenl)) := by
  have hbits : completedBits s.latch (activeBits s.latch.lenl s) =
      (activeBits s.latch.lenl s).rotate (8 * s.latch.lenl - s.latch.kl) := by
    have hloop := iterate_ror1 (S := activeBits s.latch.lenl s) (n := s.latch.kl) (by rwa [activeBits_length])
    rw [activeBits_length] at hloop
    rw [← hloop, completedBits, hi]
    rfl
  rw [bitAt_completed hk, hbits, activeBits_rotate_getD hk, Nat.add_sub_assoc hkl.le]

/-- Settles O36: the loop of KL steps is one rotation; an empty buffer has no position. -/
theorem rotationCompletes : Obligations.RotationCompletes := by
  refine fun s hbusy hkl => ⟨fun hi => ?_, fun hi => ?_⟩
  · have hr : readsCount s.latch.opl = true := by rw [hi]; rfl
    exact ⟨_, exec_completes hbusy hi, completed_frame_of_rotation hr, fun k hk => bitAt_completed_rol hi hk,
      fun j => bufByte_completed_of_ge⟩
  · have hr : readsCount s.latch.opl = true := by rw [hi]; rfl
    refine ⟨_, exec_completes hbusy hi, completed_frame_of_rotation hr, fun k hk => bitAt_completed_ror hi ?_ hk,
      fun j => bufByte_completed_of_ge⟩
    omega

end Sys2Proof.Machine
end

section
/-!
PROOFS. A command in flight ends (40_command_cycle.md R108): every turn completes it, abandons it by a reset, or is a scheduled host
turn, of which there are finitely many (20_memory.md R62, 70_reset_and_hazards.md R246; log 1, 2).
-/

namespace Sys2Proof.Machine

variable {s : State}

/-- A host's turn while a command is in flight changes the host's own lists at most (70_reset_and_hazards.md R240). -/
theorem hostMove_of_busy (hbusy : s.busy = true) :
    ∃ ops given, hostMove s = .next { s with pending := ops, responses := given } := by
  rcases hostMove_cases s with
    ⟨-, hm⟩ | ⟨off, n, -, -, hm⟩ | ⟨off, n, v, -, -, hm⟩ | ⟨-, -, ⟨-, hm⟩ | ⟨-, hm⟩⟩
  case inr.inr.inl =>
    obtain ⟨r, hw⟩ := busWrite_of_busy hbusy off n v
    rw [hw] at hm
    exact ⟨_, _, hm⟩
  all_goals exact ⟨_, _, hm⟩

/-- A turn while BUSY = 1: the command ends, or a turn of the schedule is used up. -/
theorem step_of_busy (hbusy : s.busy = true) :
    ∃ t, step s = .next t ∧ (t.busy = false ∨ t.busy = true ∧ t.schedule.length < s.schedule.length) := by
  rcases step_cases s with ⟨-, hs⟩ | ⟨-, -, hs⟩ | ⟨-, hidle, -⟩ | ⟨hagent, hs⟩
  · exact ⟨_, hs, .inl rfl⟩
  · rw [exec_completes hbusy rfl, mapNext_next] at hs
    exact ⟨_, hs, .inl rfl⟩
  · cases hbusy.symm.trans hidle
  · obtain ⟨ops, given, hm⟩ := hostMove_of_busy hbusy
    rw [hm, mapNext_next] at hs
    have hpos := List.length_pos_iff.mpr (schedule_ne_nil_of_busy_host hagent hbusy)
    refine ⟨_, hs, .inr ⟨hbusy, ?_⟩⟩
    rw [popSchedule_schedule, List.length_tail]
    exact Nat.sub_lt hpos Nat.one_pos

/-- By strong induction on the length of the schedule. -/
theorem busy_clears (s : State) (hbusy : s.busy = true) :
    ∃ k t, k ≤ s.schedule.length + 1 ∧ Host.Core.run Sys2Proof.core k s = .next t ∧ t.busy = false := by
  obtain ⟨t, hs, hidle | ⟨hbusy', hless⟩⟩ := step_of_busy hbusy
  · exact ⟨1, t, Nat.le_add_left 1 _, run_succ_of_step 0 s t hs, hidle⟩
  · obtain ⟨k, u, hk, hrun, hdone⟩ := busy_clears t hbusy'
    exact ⟨k + 1, u, by omega, (run_succ_of_step k s t hs).trans hrun, hdone⟩
termination_by s.schedule.length

/-- Settles O7: by the turns left in the schedule, and the engine's turn after it. -/
theorem busyEventuallyClears : Obligations.BusyEventuallyClears := busy_clears

end Sys2Proof.Machine
end

section
/-!
PROOFS. The shift family (41_shift.md R120 to R129): the one-bit shifts on bit strings and on the numbers they stand for, the completion
of SHL and SHR by position and by byte lane, and the laws of commands that follow one another.
-/

namespace Sys2Proof.Machine

variable {i : Instr} {s : State} {S : Bits} {j k n : Nat}

/-! ## The one-bit shifts as arithmetic (41_shift.md R123, R127) -/

theorem bitsValue_shl1 (S : Bits) : bitsValue (shl1 S).1 = 2 * bitsValue S % 2 ^ S.length := by
  cases S with
  | nil => rfl
  | cons c rest =>
    have hnew : bitsValue (rest ++ [false]) = 2 * bitsValue rest := by rw [bitsValue_append]; rfl
    have hlt : 2 * bitsValue rest < 2 ^ (rest.length + 1) := by have := bitsValue_lt rest; omega
    calc bitsValue (rest ++ [false])
      _ = 2 * bitsValue rest % 2 ^ (rest.length + 1) := by rw [hnew, Nat.mod_eq_of_lt hlt]
      _ = (2 ^ (rest.length + 1) * c.toNat + 2 * bitsValue rest) % 2 ^ (rest.length + 1) := by rw [Nat.mul_add_mod]
      _ = 2 * bitsValue (c :: rest) % 2 ^ (c :: rest).length := by
        rw [bitsValue_cons, List.length_cons, mul_add, ← mul_assoc, pow_succ']

theorem shl1_carry_toNat (S : Bits) : (shl1 S).2.toNat = bitsValue S / 2 ^ (S.length - 1) := by
  cases S with
  | nil => rfl
  | cons c rest =>
    rw [bitsValue_cons, List.length_cons, Nat.add_sub_cancel, Nat.mul_add_div (Nat.two_pow_pos _),
      Nat.div_eq_of_lt (bitsValue_lt rest)]
    rfl

theorem bitsValue_concat (T : Bits) (c : Bool) : bitsValue (T.concat c) = 2 * bitsValue T + c.toNat := by
  rw [List.concat_eq_append, bitsValue_append, bitsValue_cons]
  simp

theorem shr1_concat (T : Bits) (c : Bool) : shr1 (T.concat c) = (false :: T, c) := by
  simp [shr1]

theorem bitsValue_shr1 (S : Bits) : bitsValue (shr1 S).1 = bitsValue S / 2 := by
  rcases List.eq_nil_or_concat S with rfl | ⟨T, c, rfl⟩
  · rfl
  · have hnew : bitsValue (false :: T) = bitsValue T := by rw [bitsValue_cons]; simp
    rw [shr1_concat, bitsValue_concat, hnew]
    cases c
    · simp
    · simp; omega

theorem shr1_carry_toNat (S : Bits) : (shr1 S).2.toNat = bitsValue S % 2 := by
  rcases List.eq_nil_or_concat S with rfl | ⟨T, c, rfl⟩
  · rfl
  · rw [shr1_concat, bitsValue_concat]
    cases c <;> simp

/-! ## Shifts after one another, on bit strings -/

/-- A left shift leaves 0 at the last position (41_shift.md R123). -/
theorem shl1_getD_last (S : Bits) : (shl1 S).1.getD (S.length - 1) false = false := by
  rw [shl1_getD, List.getD_eq_default _ _ (by omega)]

theorem shr1_shl1_carry (S : Bits) : (shr1 (shl1 S).1).2 = false := by
  rw [shr1_carry, shl1_length, shl1_getD_last]

theorem shl1_shr1_carry (S : Bits) : (shl1 (shr1 S).1).2 = false := by
  rw [shl1_carry, shr1_getD_zero]

theorem shr1_shl1_getD (hpos : 1 ≤ k) (hk : k < S.length) : (shr1 (shl1 S).1).1.getD k false = S.getD k false := by
  obtain ⟨m, rfl⟩ := Nat.exists_eq_add_of_le' hpos
  rw [shr1_getD_succ _ _ (by rwa [shl1_length]), shl1_getD]

theorem shl1_shr1_getD (hk : k + 1 < S.length) : (shl1 (shr1 S).1).1.getD k false = S.getD k false := by
  rw [shl1_getD, shr1_getD_succ _ _ hk]

/-- The string that a run of n equal shifts leaves. -/
def shiftTimes (i : Instr) (n : Nat) (S : Bits) : Bits := Nat.iterate (fun T => (shiftStep i T).1) n S

@[simp] theorem shiftStep_length (i : Instr) (S : Bits) : (shiftStep i S).1.length = S.length := by
  cases i with
  | shl => exact shl1_length S
  | shr => exact shr1_length S
  | rol | ror | rolw | rorw => rfl

@[simp] theorem shiftTimes_length (i : Instr) (n : Nat) (S : Bits) : (shiftTimes i n S).length = S.length :=
  iterate_length _ (shiftStep_length i) n S

/-- One shift before a run of n. -/
theorem shiftTimes_succ (i : Instr) (n : Nat) (S : Bits) : shiftTimes i (n + 1) S = shiftTimes i n (shiftStep i S).1 := rfl

/-- One shift after a run of n. -/
theorem shiftTimes_succ' (i : Instr) (n : Nat) (S : Bits) : shiftTimes i (n + 1) S = (shiftStep i (shiftTimes i n S)).1 :=
  Function.iterate_succ_apply' _ n S

theorem shiftTimes_shl_getD (n : Nat) (S : Bits) (k : Nat) : (shiftTimes .shl n S).getD k false = S.getD (k + n) false := by
  induction n generalizing S with
  | zero => rfl
  | succ n ih =>
    rw [shiftTimes_succ, ih]
    exact shl1_getD S (k + n)

/-- A run of n right shifts leaves 0 in the first n positions. -/
theorem shiftTimes_shr_getD (hk : k < n) (hS : k < S.length) : (shiftTimes .shr n S).getD k false = false := by
  induction n generalizing k with
  | zero => exact absurd hk (Nat.not_lt_zero k)
  | succ n ih =>
    rw [shiftTimes_succ']
    cases k with
    | zero => exact shr1_getD_zero _
    | succ m =>
      refine (shr1_getD_succ _ m (by rwa [shiftTimes_length])).trans (ih ?_ ?_) <;> omega

/-- As many shifts as there are positions leave 0 everywhere (41_shift.md R129). -/
theorem shiftTimes_all_getD (hs : readsCount i = false) (hk : k < S.length) :
    (shiftTimes i S.length S).getD k false = false := by
  rcases eq_shl_or_shr hs with rfl | rfl
  · rw [shiftTimes_shl_getD, List.getD_eq_default _ _ (Nat.le_add_left _ _)]
  · exact shiftTimes_shr_getD hk hk

/-! ## Completion of a shift, on the active string -/

/-- A shift in flight stores the string of its one-bit shift and writes its carry (40_command_cycle.md R106). -/
theorem completed_of_shift (hi : s.latch.opl = i) (hs : readsCount i = false) :
    activeBits s.latch.lenl (completed s) = (shiftStep i (activeBits s.latch.lenl s)).1 ∧
      (completed s).carry = (shiftStep i (activeBits s.latch.lenl s)).2 := by
  subst hi
  have hbits : completedBits s.latch (activeBits s.latch.lenl s) = (shiftStep s.latch.opl (activeBits s.latch.lenl s)).1 := by
    rw [completedBits, hs]
    rfl
  refine ⟨?_, completed_carry_of_shift hs⟩
  rw [← hbits]
  exact activeBits_storeBits _ _ s (by rw [hbits, shiftStep_length, activeBits_length])

theorem completed_shl (hi : s.latch.opl = .shl) :
    activeBits s.latch.lenl (completed s) = (shl1 (activeBits s.latch.lenl s)).1 ∧
      (completed s).carry = (shl1 (activeBits s.latch.lenl s)).2 :=
  completed_of_shift hi rfl

theorem completed_shr (hi : s.latch.opl = .shr) :
    activeBits s.latch.lenl (completed s) = (shr1 (activeBits s.latch.lenl s)).1 ∧
      (completed s).carry = (shr1 (activeBits s.latch.lenl s)).2 :=
  completed_of_shift hi rfl

/-- A shift of the empty buffer completes with carry 0 and changes no byte (41_shift.md R126). -/
theorem completed_of_empty_shift (hi : s.latch.opl = i) (hs : readsCount i = false) (hempty : s.latch.lenl = 0) :
    (completed s).carry = false ∧ sameBuf s (completed s) :=
  ⟨completed_carry_of_empty_shift (hi ▸ hs) hempty, sameBuf_completed_of_empty hempty⟩

/-- Position k after SHL is position k + 1 before it, and 0 past the active bytes. -/
theorem bitAt_completed_shl (hi : s.latch.opl = .shl) (hk : k < 8 * s.latch.lenl) :
    bitAt (completed s) k = if k + 1 < 8 * s.latch.lenl then bitAt s (k + 1) else false := by
  rw [← activeBits_getD _ _ _ hk, (completed_shl hi).1, shl1_getD]
  split
  · next h => exact activeBits_getD _ _ _ h
  · next h => exact List.getD_eq_default _ _ (by rw [activeBits_length]; omega)

/-- SHR leaves 0 at position 0. -/
theorem bitAt_completed_shr_zero (hi : s.latch.opl = .shr) (hpos : 0 < s.latch.lenl) : bitAt (completed s) 0 = false := by
  rw [← activeBits_getD s.latch.lenl _ _ (by omega), (completed_shr hi).1, shr1_getD_zero]

/-- Position k + 1 after SHR is position k before it. -/
theorem bitAt_completed_shr_succ (hi : s.latch.opl = .shr) (hk : k + 1 < 8 * s.latch.lenl) :
    bitAt (completed s) (k + 1) = bitAt s k := by
  rw [← activeBits_getD _ _ _ hk, (completed_shr hi).1, shr1_getD_succ _ _ (by rwa [activeBits_length]),
    activeBits_getD _ _ _ (by omega)]

theorem completed_shl_carry (hi : s.latch.opl = .shl) (hpos : 0 < s.latch.lenl) : (completed s).carry = bitAt s 0 := by
  rw [(completed_shl hi).2, shl1_carry, activeBits_getD _ _ _ (by omega)]

theorem completed_shr_carry (hi : s.latch.opl = .shr) (hpos : 0 < s.latch.lenl) :
    (completed s).carry = bitAt s (8 * s.latch.lenl - 1) := by
  rw [(completed_shr hi).2, shr1_carry, activeBits_length, activeBits_getD _ _ _ (by omega)]

/-- Settles O29: the string's equations are those of `shl1`, and SHL stores `shl1` of the active string. -/
theorem shlMovesBitsLeft : Obligations.ShlMovesBitsLeft := by
  refine ⟨fun S => ⟨fun hnil => by subst hnil; rfl, fun _ => ⟨shl1_length S, shl1_carry S, fun k _ => shl1_getD S k,
    shl1_getD_last S, bitsValue_shl1 S, shl1_carry_toNat S⟩⟩, fun s hbusy hi => ?_⟩
  obtain ⟨hbits, hcarry⟩ := completed_shl hi
  refine ⟨_, exec_completes hbusy hi, completed_frame s, completed_of_empty_shift hi rfl,
    fun hpos => ⟨completed_shl_carry hi hpos, fun k hk => ?_, ?_, ?_, ?_⟩, fun j => bufByte_completed_of_ge⟩
  · rw [bitAt_completed_shl hi (by omega), if_pos hk]
  · rw [bitAt_completed_shl hi (by omega), if_neg (by omega)]
  · rw [activeValue, hbits, bitsValue_shl1, activeBits_length, activeValue]
  · rw [hcarry, shl1_carry_toNat, activeBits_length, activeValue]

/-- Settles O30: the string's equations are those of `shr1`, and SHR stores `shr1` of the active string. -/
theorem shrMovesBitsRight : Obligations.ShrMovesBitsRight := by
  refine ⟨fun S => ⟨fun hnil => by subst hnil; rfl, fun _ => ⟨shr1_length S, shr1_carry S, shr1_getD_zero S,
    fun k hpos hk => ?_, bitsValue_shr1 S, shr1_carry_toNat S⟩⟩, fun s hbusy hi => ?_⟩
  · obtain ⟨m, rfl⟩ := Nat.exists_eq_add_of_le' hpos
    exact shr1_getD_succ S m hk
  · obtain ⟨hbits, hcarry⟩ := completed_shr hi
    refine ⟨_, exec_completes hbusy hi, completed_frame s, completed_of_empty_shift hi rfl,
      fun hpos => ⟨completed_shr_carry hi hpos, bitAt_completed_shr_zero hi hpos, fun k hk hlt => ?_, ?_, ?_⟩,
      fun j => bufByte_completed_of_ge⟩
    · obtain ⟨m, rfl⟩ := Nat.exists_eq_add_of_le' hk
      exact bitAt_completed_shr_succ hi hlt
    · rw [activeValue, hbits, bitsValue_shr1, activeValue]
    · rw [hcarry, shr1_carry_toNat, activeValue]

/-! ## The byte lanes (41_shift.md R121) -/

/-- The bits of a lane that shifts left: its own next bit, and at bit 0 the top bit of the neighbour. -/
theorem shlLane_getMsbD (b next : Byte) (hj : j < 8) :
    ((b <<< 1) ||| (next >>> 7)).getMsbD j = if j < 7 then b.getMsbD (j + 1) else next.getMsbD 0 := by
  rw [BitVec.getMsbD_or, BitVec.getMsbD_shiftLeft, BitVec.getMsbD_ushiftRight]
  split
  · next h => simp [h]
  · next h =>
    obtain rfl : j = 7 := by omega
    simp

/-- The bits of a lane that shifts right: its own previous bit, and at bit 7 the bottom bit of the neighbour. -/
theorem shrLane_getMsbD (b prev : Byte) (hj : j < 8) :
    ((b >>> 1) ||| (prev <<< 7)).getMsbD j = if j = 0 then prev.getMsbD 7 else b.getMsbD (j - 1) := by
  rw [BitVec.getMsbD_or, BitVec.getMsbD_shiftLeft, BitVec.getMsbD_ushiftRight]
  cases j with
  | zero => simp
  | succ m => simp [hj]

theorem bufByte_completed_shl (hi : s.latch.opl = .shl) (hk : k < s.latch.lenl) :
    bufByte (completed s) k =
      (bufByte s k <<< 1) ||| (if k + 1 < s.latch.lenl then bufByte s (k + 1) >>> 7 else 0#8) := by
  have hin : (if k + 1 < s.latch.lenl then bufByte s (k + 1) >>> 7 else 0#8) =
      (if k + 1 < s.latch.lenl then bufByte s (k + 1) else 0#8) >>> 7 := by split <;> rfl
  refine byte_ext _ _ fun j hj => ?_
  rw [hin, shlLane_getMsbD _ _ hj, bufByte_getMsbD _ _ _ hj, bitAt_completed_shl hi (by omega)]
  by_cases hown : j < 7
  · rw [if_pos hown, if_pos (by omega), bufByte_getMsbD _ _ _ (by omega), add_assoc]
  · obtain rfl : j = 7 := by omega
    rw [if_neg hown]
    by_cases hnext : k + 1 < s.latch.lenl
    · rw [if_pos hnext, if_pos (by omega), bufByte_getMsbD _ _ _ (by omega)]
      rfl
    · rw [if_neg hnext, if_neg (by omega)]
      rfl

theorem bufByte_completed_shr (hi : s.latch.opl = .shr) (hk : k < s.latch.lenl) :
    bufByte (completed s) k = (bufByte s k >>> 1) ||| (if 0 < k then bufByte s (k - 1) <<< 7 else 0#8) := by
  have hin : (if 0 < k then bufByte s (k - 1) <<< 7 else 0#8) = (if 0 < k then bufByte s (k - 1) else 0#8) <<< 7 := by
    split <;> rfl
  refine byte_ext _ _ fun j hj => ?_
  rw [hin, shrLane_getMsbD _ _ hj, bufByte_getMsbD _ _ _ hj]
  cases j with
  | zero =>
    rw [if_pos rfl]
    cases k with
    | zero => exact (bitAt_completed_shr_zero hi hk).trans BitVec.getMsbD_zero.symm
    | succ m =>
      rw [if_pos (Nat.succ_pos m), Nat.add_sub_cancel, bufByte_getMsbD _ _ _ (by omega)]
      exact bitAt_completed_shr_succ (k := 8 * m + 7) hi (by omega)
  | succ m =>
    rw [if_neg (Nat.succ_ne_zero m), Nat.add_sub_cancel, bufByte_getMsbD _ _ _ (by omega)]
    exact bitAt_completed_shr_succ (k := 8 * k + m) hi (by omega)

/-- Position 0 is the top bit of BUF[0] (00_scope.md R10). -/
theorem bitAt_zero (s : State) : bitAt s 0 = (bufByte s 0).getLsbD 7 := rfl

/-- The last position of n bytes is the bottom bit of BUF[n - 1] (00_scope.md R10). -/
theorem bitAt_last (s : State) (hn : 0 < n) : bitAt s (8 * n - 1) = (bufByte s (n - 1)).getLsbD 0 := by
  obtain ⟨m, rfl⟩ := Nat.exists_eq_add_of_le' hn
  exact (bufByte_getMsbD s m 7 (by decide)).symm

/-- Settles O28: each lane of the completed state is its equation, and the carry is the bit that leaves at the end. -/
theorem shiftLaneEquations : Obligations.ShiftLaneEquations := by
  refine fun s hbusy => ⟨fun hi => ?_, fun hi => ?_⟩
  · exact ⟨_, exec_completes hbusy hi, completed_frame s, fun _ => bufByte_completed_shl hi, fun _ => bufByte_completed_of_ge,
      fun hpos => (completed_shl_carry hi hpos).trans (bitAt_zero s),
      fun hempty => (completed_of_empty_shift hi rfl hempty).1⟩
  · exact ⟨_, exec_completes hbusy hi, completed_frame s, fun _ => bufByte_completed_shr hi, fun _ => bufByte_completed_of_ge,
      fun hpos => (completed_shr_carry hi hpos).trans (bitAt_last s hpos),
      fun hempty => (completed_of_empty_shift hi rfl hempty).1⟩

/-! ## A shift presented to an idle bound block -/

/-- A shift has no check but that a buffer is bound (41_shift.md R124, R128). -/
theorem operandError_of_shift (hs : readsCount i = false) (hbound : s.bound = true) : operandError i s = none := by
  refine (operandError_eq_none_iff i s).mpr ?_
  rcases eq_shl_or_shr hs with rfl | rfl <;> exact ⟨hbound, nofun, nofun⟩

/-- Settles O31: the shift is latched with LENL = 0, and its completion stores no byte. -/
theorem emptyShiftClearsCarry : Obligations.EmptyShiftClearsCarry := by
  intro s i hi hidle hbound hlen
  have hs : readsCount i = false := by rcases hi with rfl | rfl <;> rfl
  have hempty : (latchCommand (acceptedLatch i s) s).latch.lenl = 0 := congrArg BitVec.toNat hlen
  exact ⟨_, _, exec_of_valid hidle (operandError_of_shift hs hbound), rfl, rfl, exec_completes rfl rfl, rfl,
    completed_of_empty_shift rfl hs hempty⟩

/-- An idle block with n bytes bound, whose active bit string is S. -/
structure HoldsBits (n : Nat) (S : Bits) (s : State) : Prop where
  idle : s.busy = false
  bound : s.bound = true
  len : s.len.toNat = n
  bits : activeBits n s = S

theorem HoldsBits.length (h : HoldsBits n S s) : S.length = 8 * n := by rw [← h.bits, activeBits_length]

theorem HoldsBits.bitAt_eq (h : HoldsBits n S s) (hk : k < 8 * n) : bitAt s k = S.getD k false := by
  rw [← h.bits, activeBits_getD _ _ _ hk]

/-- Active bits that are all 0 are bytes that are all 0. -/
theorem HoldsBits.bufByte_eq_zero (h : HoldsBits n S s) (hzero : ∀ k < S.length, S.getD k false = false)
    (hj : j < n) : bufByte s j = 0#8 := by
  refine byte_ext _ _ fun b hb => ?_
  rw [bufByte_getMsbD s j b hb, h.bitAt_eq (by omega), hzero _ (by rw [h.length]; omega), BitVec.getMsbD_zero]

/-- A shift run to its end on such a block leaves one, with the shifted string and the string's carry. -/
theorem HoldsBits.shift_runs (h : HoldsBits n S s) (hs : readsCount i = false) :
    ∃ t, runCommand i s = .next t ∧ HoldsBits n (shiftStep i S).1 t ∧ t.carry = (shiftStep i S).2 := by
  obtain ⟨hidle, hbound, rfl, rfl⟩ := h
  obtain ⟨hbits, hcarry⟩ := completed_of_shift (s := latchCommand (acceptedLatch i s) s) rfl hs
  exact ⟨_, runCommand_of_accepted hidle (operandError_of_shift hs hbound), ⟨rfl, hbound, rfl, hbits⟩, hcarry⟩

theorem HoldsBits.shifts_run (h : HoldsBits n S s) (hs : readsCount i = false) (k : Nat) :
    ∃ t, runCommandTimes i k s = .next t ∧ HoldsBits n (shiftTimes i k S) t := by
  induction k generalizing s S with
  | zero => exact ⟨s, rfl, h⟩
  | succ k ih =>
    obtain ⟨u, hrun, hu, -⟩ := h.shift_runs hs
    obtain ⟨t, htimes, ht⟩ := ih hu
    refine ⟨t, ?_, ht⟩
    rw [runCommandTimes, hrun]
    exact htimes

/-! ## The laws (41_shift.md R129) -/

/-- As many equal shifts as there are active bits make every active byte 0. -/
theorem HoldsBits.zeroed_by_shifts (h : HoldsBits n S s) (hs : readsCount i = false) :
    ∃ t, runCommandTimes i (8 * n) s = .next t ∧ ∀ j < n, bufByte t j = 0#8 := by
  obtain ⟨t, hrun, ht⟩ := h.shifts_run hs S.length
  refine ⟨t, h.length ▸ hrun, fun j => ht.bufByte_eq_zero fun k hk => shiftTimes_all_getD hs ?_⟩
  rwa [shiftTimes_length] at hk

/-- Settles O32: each run of shifts is the same run on the active string. -/
theorem shiftLaws : Obligations.ShiftLaws := by
  intro s hidle hbound hpos
  have h : HoldsBits s.len.toNat (activeBits s.len.toNat s) s := ⟨hidle, hbound, rfl, rfl⟩
  refine ⟨?_, ?_, h.zeroed_by_shifts rfl, h.zeroed_by_shifts rfl⟩
  · obtain ⟨a, hshl, ha, -⟩ := h.shift_runs (i := .shl) rfl
    obtain ⟨t, hshr, ht, hcarry⟩ := ha.shift_runs (i := .shr) rfl
    refine ⟨a, t, hshl, hshr, ?_, fun k hlow hk => ?_, hcarry.trans (shr1_shl1_carry _)⟩
    · exact (ht.bitAt_eq (by omega)).trans (shr1_getD_zero _)
    · rw [ht.bitAt_eq hk, h.bitAt_eq hk]
      exact shr1_shl1_getD hlow (hk.trans_eq h.length.symm)
  · obtain ⟨a, hshr, ha, -⟩ := h.shift_runs (i := .shr) rfl
    obtain ⟨t, hshl, ht, hcarry⟩ := ha.shift_runs (i := .shl) rfl
    refine ⟨a, t, hshr, hshl, ?_, fun k hk => ?_, hcarry.trans (shl1_shr1_carry _)⟩
    · have hlast := shl1_getD_last (shr1 (activeBits s.len.toNat s)).1
      rw [shr1_length, h.length] at hlast
      exact (ht.bitAt_eq (by omega)).trans hlast
    · rw [ht.bitAt_eq (by omega), h.bitAt_eq (by omega)]
      exact shl1_shr1_getD (hk.trans_eq h.length.symm)

end Sys2Proof.Machine
end

section
/-!
PROOFS. The full-buffer rotation family (42_rotate.md R141 to R146): the one-bit steps by position, the loop of KL steps as one rotation
by position and by number, where the wrapped bit goes, and the laws of ROL and ROR presented to an idle block.
-/

namespace Sys2Proof.Machine

variable {i i' : Instr} {s t : State} {S T : Bits} {k n : Nat}

/-! ## The one-bit steps, by position (42_rotate.md R141) -/

/-- One step to the right is a rotation by all places but one: it moves the last bit to the front. -/
theorem ror1_eq_rotate (S : Bits) : ror1 S = S.rotate (S.length - 1) := by
  rcases List.eq_nil_or_concat S with rfl | ⟨T, c, rfl⟩
  · rfl
  · have hfront : ror1 (T.concat c) = c :: T := by rw [ror1, shr1_concat]; rfl
    rw [hfront, List.length_concat, Nat.add_sub_cancel, List.concat_eq_append, List.rotate_append_length_eq]
    rfl

theorem rol1_getD (hk : k < S.length) : (rol1 S).getD k false = S.getD ((k + 1) % S.length) false := by
  rw [rol1_eq_rotate, getD_rotate hk]

theorem ror1_getD (hk : k < S.length) : (ror1 S).getD k false = S.getD ((k + S.length - 1) % S.length) false := by
  rw [ror1_eq_rotate, getD_rotate hk, Nat.add_sub_assoc (Nat.one_le_of_lt hk)]

/-- Settles O33: each one-bit step is a rotation of the list. -/
theorem oneBitRotationSteps : Obligations.OneBitRotationSteps := fun S _ =>
  ⟨rol1_length S, ror1_length S, fun _ hk => ⟨rol1_getD hk, ror1_getD hk⟩⟩

/-! ## The wrapped bit (42_rotate.md R144) -/

theorem rol1_getD_last (hpos : 0 < S.length) : (rol1 S).getD (S.length - 1) false = S.getD 0 false := by
  rw [rol1_getD (Nat.sub_one_lt_of_lt hpos), Nat.sub_add_cancel hpos, Nat.mod_self]

theorem ror1_getD_zero (hpos : 0 < S.length) : (ror1 S).getD 0 false = S.getD (S.length - 1) false := by
  rw [ror1_getD hpos, Nat.zero_add, Nat.mod_eq_of_lt (Nat.sub_one_lt_of_lt hpos)]

/-- A ROL by one place moves the top bit of BUF[0] to the bottom bit of BUF[LENL - 1]. -/
theorem rol_wraps_bit (hi : s.latch.opl = .rol) (hkl : s.latch.kl = 1) (hpos : 0 < s.latch.lenl) :
    (bufByte (completed s) (s.latch.lenl - 1)).getLsbD 0 = (bufByte s 0).getLsbD 7 := by
  have hbits : 0 < 8 * s.latch.lenl := by omega
  rw [← bitAt_last _ hpos, ← bitAt_zero, bitAt_completed_rol hi (Nat.sub_one_lt_of_lt hbits), hkl, Nat.sub_add_cancel hbits,
    Nat.mod_self]

/-- A ROR by one place moves the bottom bit of BUF[LENL - 1] to the top bit of BUF[0]. -/
theorem ror_wraps_bit (hi : s.latch.opl = .ror) (hkl : s.latch.kl = 1) (hpos : 0 < s.latch.lenl) :
    (bufByte (completed s) 0).getLsbD 7 = (bufByte s (s.latch.lenl - 1)).getLsbD 0 := by
  have hbits : 0 < 8 * s.latch.lenl := by omega
  rw [← bitAt_last _ hpos, ← bitAt_zero, bitAt_completed_ror hi (by omega) hbits, hkl, Nat.zero_add,
    Nat.mod_eq_of_lt (Nat.sub_one_lt_of_lt hbits)]

/-- Settles O34: the steps at the two ends of the string, and the two ends of BUF as byte bits. -/
theorem wrappedBitPositions : Obligations.WrappedBitPositions := by
  refine ⟨fun S hne => ?_, fun s => ⟨bitAt_zero s, fun n => bitAt_last s⟩, fun s hbusy hkl hpos => ⟨fun hi => ?_, fun hi => ?_⟩⟩
  · have hlen := List.length_pos_iff.mpr hne
    exact ⟨rol1_getD_last hlen, ror1_getD_zero hlen⟩
  · exact ⟨_, exec_completes hbusy hi, rol_wraps_bit hi hkl hpos⟩
  · exact ⟨_, exec_completes hbusy hi, ror_wraps_bit hi hkl hpos⟩

/-! ## The loop as one rotation (42_rotate.md R145) -/

/-- The number of a rotated string: the k bits that leave at the top come back at the bottom. With A the first k bits and B the rest,
V(S) is `2^(L-k) A + B`, so `V << k` is `2^L A + 2^k B` and `V >> (L-k)` is A. -/
theorem bitsValue_rotate (hk : k ≤ S.length) :
    bitsValue (S.rotate k) = ((bitsValue S <<< k) ||| (bitsValue S >>> (S.length - k))) % 2 ^ S.length := by
  have hnew : bitsValue (S.rotate k) = 2 ^ k * bitsValue (S.drop k) + bitsValue (S.take k) := by
    rw [List.rotate_eq_drop_append_take hk, bitsValue_append, List.length_take_of_le hk]
  have hold : bitsValue S = 2 ^ (S.length - k) * bitsValue (S.take k) + bitsValue (S.drop k) := by
    conv_lhs => rw [← List.take_append_drop k S]
    rw [bitsValue_append, List.length_drop]
  have hdrop : bitsValue (S.drop k) < 2 ^ (S.length - k) := by simpa using bitsValue_lt (S.drop k)
  have htake : bitsValue (S.take k) < 2 ^ k := by simpa [hk] using bitsValue_lt (S.take k)
  have hlow : bitsValue S >>> (S.length - k) = bitsValue (S.take k) := by
    rw [Nat.shiftRight_eq_div_pow, hold, Nat.mul_add_div (Nat.two_pow_pos _), Nat.div_eq_of_lt hdrop, Nat.add_zero]
  have hpow : 2 ^ S.length = 2 ^ k * 2 ^ (S.length - k) := by rw [← pow_add, Nat.add_sub_cancel' hk]
  have hlt : bitsValue (S.rotate k) < 2 ^ S.length := by simpa using bitsValue_lt (S.rotate k)
  calc bitsValue (S.rotate k)
    _ = (2 ^ S.length * bitsValue (S.take k) + bitsValue (S.rotate k)) % 2 ^ S.length := by
      rw [Nat.mul_add_mod, Nat.mod_eq_of_lt hlt]
    _ = (bitsValue S <<< k + bitsValue (S.take k)) % 2 ^ S.length := by
      rw [Nat.shiftLeft_eq, hnew, hold, hpow]
      congr 1
      ring
    _ = ((bitsValue S <<< k) ||| (bitsValue S >>> (S.length - k))) % 2 ^ S.length := by
      rw [hlow, Nat.shiftLeft_add_eq_or_of_lt htake]

/-- Settles O35: both loops are rotations of the list. -/
theorem rotationClosedForm : Obligations.RotationClosedForm := by
  intro S k hk
  refine ⟨fun i hi => ?_, fun i hi => ?_, iterate_length _ rol1_length k S, iterate_length _ ror1_length k S, ?_, ?_⟩
  · rw [iterate_rol1, getD_rotate hi]
  · rw [iterate_ror1 hk, getD_rotate hi, Nat.add_sub_assoc hk.le]
  · rw [iterate_rol1, bitsValue_rotate hk.le]
  · rw [iterate_ror1 hk, iterate_rol1, List.rotate_mod]

/-! ## The string that ROL and ROR leave, for any count (42_rotate.md R146) -/

/-- The active string after ROL or ROR with COUNT = c; the other commands are not of this family. -/
def rotated (i : Instr) (c : Nat) (S : Bits) : Bits :=
  match i with
  | .rol => S.rotate c
  | .ror => S.rotate (S.length - c % S.length)
  | .shl | .shr | .rolw | .rorw => S

/-- The model's loop, on a string that is not empty. -/
theorem iterate_rotationStep (hi : i = .rol ∨ i = .ror) (hpos : 0 < S.length) (w c : Nat) :
    Nat.iterate (rotationStep i w) (c % S.length) S = rotated i c S := by
  rcases hi with rfl | rfl
  · exact (iterate_rol1 _ S).trans (S.rotate_mod c)
  · exact iterate_ror1 (Nat.mod_lt c hpos)

theorem rotated_perm (i : Instr) (c : Nat) (S : Bits) : (rotated i c S).Perm S := by
  cases i with
  | rol | ror => exact List.rotate_perm S _
  | shl | shr | rolw | rorw => exact .refl S

@[simp] theorem rotated_length (i : Instr) (c : Nat) (S : Bits) : (rotated i c S).length = S.length :=
  (rotated_perm i c S).length_eq

/-- A multiple of the length is no rotation; the counts 0 and L are two of them. -/
theorem rotated_of_mod_eq_zero {c : Nat} (h : c % S.length = 0) (i : Instr) : rotated i c S = S := by
  cases i with
  | rol => rw [rotated, ← List.rotate_mod, h, List.rotate_zero]
  | ror => rw [rotated, h, Nat.sub_zero, List.rotate_length]
  | shl | shr | rolw | rorw => rfl

/-- ROR is the inverse of ROL with the same count. -/
theorem rotated_rol_eq_iff {c : Nat} : rotated .rol c S = T ↔ S = rotated .ror c T := List.rotate_eq_iff

theorem rotated_ror_rol (c : Nat) (S : Bits) : rotated .ror c (rotated .rol c S) = S := (rotated_rol_eq_iff.mp rfl).symm

theorem rotated_rol_ror (c : Nat) (S : Bits) : rotated .rol c (rotated .ror c S) = S := rotated_rol_eq_iff.mpr rfl

theorem rotated_rol_mod (c : Nat) (S : Bits) : rotated .rol (c % S.length) S = rotated .rol c S := S.rotate_mod c

/-- ROL by the rest of the period is ROR. -/
theorem rotated_rol_rest (c : Nat) (S : Bits) :
    rotated .rol ((S.length - c % S.length) % S.length) S = rotated .ror c S := S.rotate_mod _

/-- ROR by the rest of the period is ROL: ROL by that rest undoes ROL. -/
theorem rotated_ror_rest (c : Nat) (S : Bits) :
    rotated .ror ((S.length - c % S.length) % S.length) S = rotated .rol c S := by
  have hrest := rotated_rol_rest c (rotated .rol c S)
  rw [rotated_length, rotated_ror_rol, rotated_rol_eq_iff] at hrest
  exact hrest.symm

/-! ## A rotation presented to an idle bound block -/

theorem count_toInt_toNat (hcount : 0 ≤ s.count.toInt) : s.count.toInt.toNat = s.count.toNat := by
  rw [BitVec.toInt_eq_toNat_of_lt (BitVec.toInt_pos_iff.mp hcount), Int.toNat_natCast]

/-- A full-buffer rotation has to find a buffer and a count that is not negative (60_exceptions.md R202). -/
theorem operandError_of_rotation (hi : i = .rol ∨ i = .ror) (hbound : s.bound = true) (hcount : 0 ≤ s.count.toInt) :
    operandError i s = none := by
  refine (operandError_eq_none_iff i s).mpr ?_
  rcases hi with rfl | rfl <;> exact ⟨hbound, fun _ => hcount, nofun⟩

theorem completedBits_length (l : Latch) (S : Bits) : (completedBits l S).length = S.length := by
  unfold completedBits
  split
  · exact iterate_length _ (rotationStep_length _ _) _ S
  · exact shiftStep_length _ S

/-- The string that a ROL or ROR stores, with the latch of its acceptance. -/
theorem completedBits_of_rotation (hi : i = .rol ∨ i = .ror) (hcount : 0 ≤ s.count.toInt) (hS : S.length = 8 * s.len.toNat) :
    completedBits (acceptedLatch i s) S = rotated i s.count.toNat S := by
  rcases Nat.eq_zero_or_pos S.length with hzero | hpos
  · rw [List.length_eq_zero_iff.mp ((completedBits_length _ S).trans hzero),
      List.length_eq_zero_iff.mp ((rotated_length i _ S).trans hzero)]
  · have hr : readsCount i = true := by rcases hi with rfl | rfl <;> rfl
    rw [acceptedLatch_rotation hi, if_neg (by omega), count_toInt_toNat hcount, ← hS, completedBits, if_pos hr,
      iterate_rotationStep hi hpos]

theorem activeBits_completed (s : State) :
    activeBits s.latch.lenl (completed s) = completedBits s.latch (activeBits s.latch.lenl s) :=
  activeBits_storeBits _ _ s ((completedBits_length _ _).trans (activeBits_length _ s))

/-- What a full-buffer rotation of a block with n bytes bound leaves: the string T, and COUNT and the inactive bytes of before. -/
structure RotatedTo (n : Nat) (T : Bits) (s t : State) : Prop where
  holds : HoldsBits n T t
  count : t.count = s.count
  inactive : ∀ j, n ≤ j → bufByte t j = bufByte s j

/-- ROL and ROR run to their end rotate the active string by COUNT. -/
theorem HoldsBits.rotation_runs (h : HoldsBits n S s) (hi : i = .rol ∨ i = .ror) (hcount : 0 ≤ s.count.toInt) :
    ∃ t, runCommand i s = .next t ∧ RotatedTo n (rotated i s.count.toNat S) s t := by
  obtain ⟨hidle, hbound, rfl, rfl⟩ := h
  have hbits := (activeBits_completed (latchCommand (acceptedLatch i s) s)).trans
    (completedBits_of_rotation hi hcount (activeBits_length _ s))
  exact ⟨_, runCommand_of_accepted hidle (operandError_of_rotation hi hbound hcount), ⟨rfl, hbound, rfl, hbits⟩, rfl,
    fun _ => bufByte_completed_of_ge (s := latchCommand (acceptedLatch i s) s)⟩

/-- Blocks with the same active string and the same inactive bytes hold the same bytes. -/
theorem HoldsBits.sameBuf_of_inactive (hs : HoldsBits n S s) (ht : HoldsBits n S t)
    (hinactive : ∀ j, n ≤ j → bufByte s j = bufByte t j) : sameBuf s t := by
  intro j
  rcases Nat.lt_or_ge j n with hj | hj
  · exact bufByte_eq_of_bits s t j fun b hb => by rw [hs.bitAt_eq (by omega), ht.bitAt_eq (by omega)]
  · exact hinactive j hj

theorem HoldsBits.after_setCount (h : HoldsBits n S s) (v : Word) : HoldsBits n S (setCount v s) := ⟨h.idle, h.bound, h.len, h.bits⟩

/-- A rotation with a count of its own, small enough not to be negative as a word. -/
theorem HoldsBits.rotation_by_runs (h : HoldsBits n S s) (hi : i = .rol ∨ i = .ror) {c : Nat} (hc : c < 2 ^ 31) :
    ∃ t, runCommand i (setCount (BitVec.ofNat 32 c) s) = .next t ∧
      RotatedTo n (rotated i c S) (setCount (BitVec.ofNat 32 c) s) t := by
  have hvalue : (BitVec.ofNat 32 c).toNat = c := by rw [BitVec.toNat_ofNat, Nat.mod_eq_of_lt (by omega)]
  have hcount : 0 ≤ (BitVec.ofNat 32 c).toInt := BitVec.toInt_pos_iff.mpr (by omega)
  have hrun := (h.after_setCount (BitVec.ofNat 32 c)).rotation_runs hi hcount
  rwa [setCount_count, hvalue] at hrun

/-! ## The laws (42_rotate.md R146) -/

/-- A rotation and then one that undoes it on strings restore BUF. -/
theorem HoldsBits.round_trip (h : HoldsBits n S s) (hcount : 0 ≤ s.count.toInt) (hi : i = .rol ∨ i = .ror)
    (hi' : i' = .rol ∨ i' = .ror) (hback : rotated i' s.count.toNat (rotated i s.count.toNat S) = S) :
    ∃ a t, runCommand i s = .next a ∧ runCommand i' a = .next t ∧ sameBuf s t := by
  obtain ⟨a, hrun, ha⟩ := h.rotation_runs hi hcount
  obtain ⟨t, hrun', ht⟩ := ha.holds.rotation_runs hi' (ha.count ▸ hcount)
  have hholds := ht.holds
  rw [ha.count, hback] at hholds
  exact ⟨a, t, hrun, hrun', h.sameBuf_of_inactive hholds fun j hj => ((ht.inactive j hj).trans (ha.inactive j hj)).symm⟩

/-- A count that is a multiple of L is an identity, and every count keeps the number of 1 bits. -/
theorem HoldsBits.rotation_keeps (h : HoldsBits n S s) (hcount : 0 ≤ s.count.toInt) (hi : i = .rol ∨ i = .ror) :
    ∃ t, runCommand i s = .next t ∧ (s.count.toNat % (8 * n) = 0 → sameBuf s t) ∧
      (activeBits n t).count true = (activeBits n s).count true := by
  obtain ⟨t, hrun, ht⟩ := h.rotation_runs hi hcount
  refine ⟨t, hrun, fun hzero => ?_, ?_⟩
  · have hholds := ht.holds
    rw [rotated_of_mod_eq_zero (h.length ▸ hzero)] at hholds
    exact h.sameBuf_of_inactive hholds fun j hj => (ht.inactive j hj).symm
  · rw [ht.holds.bits, h.bits, (rotated_perm i _ S).count_eq]

/-- ROL by COUNT, ROL by its remainder and ROR by the rest of the period leave the same bytes. -/
theorem HoldsBits.rol_count_modulo (h : HoldsBits n S s) (hcount : 0 ≤ s.count.toInt) (hpos : 0 < n) :
    ∃ a b c, runCommand .rol s = .next a ∧
      runCommand .rol (setCount (BitVec.ofNat 32 (s.count.toNat % (8 * n))) s) = .next b ∧
      runCommand .ror (setCount (BitVec.ofNat 32 ((8 * n - s.count.toNat % (8 * n)) % (8 * n))) s) = .next c ∧
      sameBuf a b ∧ sameBuf a c := by
  have hn : n < 2 ^ 13 := h.len ▸ s.len.isLt
  have hsmall : ∀ m, m % (8 * n) < 2 ^ 31 := fun m => (Nat.mod_lt m (by omega)).trans (by omega)
  obtain ⟨a, hrunA, ha⟩ := h.rotation_runs (i := .rol) (.inl rfl) hcount
  obtain ⟨b, hrunB, hb⟩ := h.rotation_by_runs (i := .rol) (.inl rfl) (hsmall s.count.toNat)
  obtain ⟨c, hrunC, hc⟩ := h.rotation_by_runs (i := .ror) (.inr rfl) (hsmall (8 * n - s.count.toNat % (8 * n)))
  have hholdsB := hb.holds
  have hholdsC := hc.holds
  rw [← h.length, rotated_rol_mod] at hholdsB
  rw [← h.length, rotated_ror_rest] at hholdsC
  exact ⟨a, b, c, hrunA, hrunB, hrunC,
    ha.holds.sameBuf_of_inactive hholdsB fun j hj => (ha.inactive j hj).trans (hb.inactive j hj).symm,
    ha.holds.sameBuf_of_inactive hholdsC fun j hj => (ha.inactive j hj).trans (hc.inactive j hj).symm⟩

/-- Settles O37: each law of commands is the law of the strings they leave. -/
theorem rotationLaws : Obligations.RotationLaws := by
  intro s hidle hbound hcount
  have h : HoldsBits s.len.toNat (activeBits s.len.toNat s) s := ⟨hidle, hbound, rfl, rfl⟩
  refine ⟨h.round_trip hcount (.inl rfl) (.inr rfl) (rotated_ror_rol _ _),
    h.round_trip hcount (.inr rfl) (.inl rfl) (rotated_rol_ror _ _), fun i hi => ?_, h.rol_count_modulo hcount⟩
  obtain ⟨t, hrun, hidentity, hones⟩ := h.rotation_keeps hcount hi
  refine ⟨t, hrun, fun hfull => hidentity ?_, fun hnone => hidentity ?_, hones⟩
  · rw [hfull, Nat.mod_self]
  · rw [hnone]
    exact Nat.zero_mod _

end Sys2Proof.Machine
end

section
/-!
PROOFS. The windowed rotation family (43_rotate_window.md R161 to R168): the datapath with its boundary mask is the full-buffer step on
the window and nothing on the padding, so the loop of KL steps, the completion of ROLW and RORW, and their laws are those of ROL and ROR
on the first w positions.
-/

namespace Sys2Proof.Machine

variable {i i' : Instr} {s t : State} {f g : Bits → Bits} {S A P T : Bits} {c k n w : Nat}

/-! ## An update of the window -/

/-- `f` applied to the window, positions 0 to w - 1; the padding kept (43_rotate_window.md R161). -/
def onWindow (f : Bits → Bits) (w : Nat) (S : Bits) : Bits := f (S.take w) ++ S.drop w

theorem onWindow_append (f : Bits → Bits) (A P : Bits) : onWindow f A.length (A ++ P) = f A ++ P := by
  rw [onWindow, List.take_left, List.drop_left]

/-- A window that is the whole string (43_rotate_window.md R168). -/
theorem onWindow_full (f : Bits → Bits) (S : Bits) : onWindow f S.length S = f S := by
  rw [onWindow, List.take_length, List.drop_length, List.append_nil]

theorem onWindow_eq_self (h : f (S.take w) = S.take w) : onWindow f w S = S := by
  rw [onWindow, h, List.take_append_drop]

theorem onWindow_length (hf : ∀ T, (f T).length = T.length) (w : Nat) (S : Bits) : (onWindow f w S).length = S.length := by
  rw [onWindow, List.length_append, hf, ← List.length_append, List.take_append_drop]

theorem take_onWindow (hf : ∀ T, (f T).length = T.length) (hw : w ≤ S.length) : (onWindow f w S).take w = f (S.take w) :=
  List.take_left' (by rw [hf, List.length_take_of_le hw])

theorem drop_onWindow (hf : ∀ T, (f T).length = T.length) (hw : w ≤ S.length) : (onWindow f w S).drop w = S.drop w :=
  List.drop_left' (by rw [hf, List.length_take_of_le hw])

theorem getD_take (hk : k < w) : (S.take w).getD k false = S.getD k false := by
  rw [List.getD_eq_getElem?_getD, List.getElem?_take_of_lt hk, ← List.getD_eq_getElem?_getD]

theorem onWindow_getD_window (hf : ∀ T, (f T).length = T.length) (hw : w ≤ S.length) (hk : k < w) :
    (onWindow f w S).getD k false = (f (S.take w)).getD k false := by
  rw [← getD_take hk, take_onWindow hf hw]

theorem onWindow_getD_padding (hf : ∀ T, (f T).length = T.length) (hw : w ≤ S.length) (hk : w ≤ k) :
    (onWindow f w S).getD k false = S.getD k false := by
  obtain ⟨m, rfl⟩ := Nat.exists_eq_add_of_le hk
  have hdrop (T : Bits) : T.getD (w + m) false = (T.drop w).getD m false := by
    rw [List.getD_eq_getElem?_getD, List.getD_eq_getElem?_getD, List.getElem?_drop]
  rw [hdrop, hdrop, drop_onWindow hf hw]

theorem onWindow_onWindow (hf : ∀ T, (f T).length = T.length) (hw : w ≤ S.length) (g : Bits → Bits) :
    onWindow g w (onWindow f w S) = onWindow (g ∘ f) w S := by
  rw [onWindow, take_onWindow hf hw, drop_onWindow hf hw]
  rfl

/-- A loop of steps that update the window is one update of the window by the loop. -/
theorem iterate_onWindow (hf : ∀ T, (f T).length = T.length) (hstep : ∀ T, w ≤ T.length → g T = onWindow f w T)
    (hw : w ≤ S.length) (k : Nat) : Nat.iterate g k S = onWindow (Nat.iterate f k) w S := by
  induction k with
  | zero => exact (onWindow_eq_self rfl).symm
  | succ k ih =>
    have hloop : ∀ T, (Nat.iterate f k T).length = T.length := iterate_length f hf k
    rw [Function.iterate_succ_apply', ih, hstep _ (by rwa [onWindow_length hloop]), onWindow_onWindow hloop hw,
      ← Function.iterate_succ']

/-! ## The datapath of the one-bit steps (43_rotate_window.md R163) -/

/-- The boundary mask puts the window of one string before the padding of the other. -/
theorem restorePadding_append (h : T.length = (A ++ P).length) :
    restorePadding A.length T (A ++ P) = T.take A.length ++ P := by
  have hlen : A.length ≤ T.length := by rw [h, List.length_append]; exact Nat.le_add_right _ _
  have htake : (T.take A.length).length = A.length := List.length_take_of_le hlen
  refine List.ext_getElem? fun k => ?_
  rw [restorePadding_getElem? _ _ _ h]
  split
  · next hk => rw [List.getElem?_append_left (hk.trans_eq htake.symm), List.getElem?_take_of_lt hk]
  · next hk =>
    have hk := Nat.le_of_not_lt hk
    rw [List.getElem?_append_right hk, List.getElem?_append_right (htake.trans_le hk), htake]

/-- The datapath of a step to the left. -/
theorem rolw1_eq (w : Nat) (S : Bits) : rolw1 w S = restorePadding w ((shl1 S).1.set (w - 1) (shl1 S).2) S := rfl

/-- The datapath of a step to the right. -/
theorem rorw1_eq (w : Nat) (S : Bits) :
    rorw1 w S =
      restorePadding w ((shr1 S).1.set 0 (if w = S.length then (shr1 S).2 else (shr1 S).1.getD w false)) S := rfl

/-- A step to the left: the window's first bit, the carry of the shift, goes to the window's last position. -/
theorem rolw1_append (A P : Bits) : rolw1 A.length (A ++ P) = rol1 A ++ P := by
  rw [rolw1_eq, restorePadding_append (by rw [List.length_set, shl1_length])]
  cases A with
  | nil => rfl
  | cons c A =>
    have hrol : rol1 (c :: A) = A ++ [c] := by rw [rol1_eq_rotate, List.rotate_cons_succ, List.rotate_zero]
    obtain ⟨d, Q, hvacated⟩ := List.exists_cons_of_ne_nil (List.append_ne_nil_of_right_ne_nil P (List.cons_ne_nil false []))
    have hset : ((A ++ P ++ [false]).set A.length c).take (A.length + 1) = A ++ [c] := by
      rw [List.append_assoc, hvacated, List.set_append_right _ _ le_rfl, Nat.sub_self, List.take_length_add_append]
      rfl
    rw [hrol]
    exact congrArg (· ++ P) hset

/-- A step to the right: the window's last bit, found in the carry or one place into the padding, goes to position 0. -/
theorem rorw1_append (A P : Bits) : rorw1 A.length (A ++ P) = ror1 A ++ P := by
  rw [rorw1_eq, restorePadding_append (by rw [List.length_set, shr1_length])]
  refine congrArg (· ++ P) ?_
  rcases List.eq_nil_or_concat A with rfl | ⟨A, c, rfl⟩
  · rfl
  · have hror : ror1 (A.concat c) = c :: A := by rw [ror1, shr1_concat]; rfl
    rcases List.eq_nil_or_concat P with rfl | ⟨P, d, rfl⟩
    · rw [List.append_nil, shr1_concat, hror]
      simp
    · have hshr : shr1 (A.concat c ++ P.concat d) = (false :: (A.concat c ++ P), d) := by
        rw [List.append_concat, shr1_concat]
      rw [hshr, hror]
      simp

theorem rolw1_eq_onWindow (hw : w ≤ S.length) : rolw1 w S = onWindow rol1 w S := by
  have happend := rolw1_append (S.take w) (S.drop w)
  rwa [List.length_take_of_le hw, List.take_append_drop] at happend

theorem rorw1_eq_onWindow (hw : w ≤ S.length) : rorw1 w S = onWindow ror1 w S := by
  have happend := rorw1_append (S.take w) (S.drop w)
  rwa [List.length_take_of_le hw, List.take_append_drop] at happend

/-! ## The one-bit steps, by position (43_rotate_window.md R162) -/

theorem rolw1_getD_window (hw : w ≤ S.length) (hk : k < w) : (rolw1 w S).getD k false = S.getD ((k + 1) % w) false := by
  have hlen : (S.take w).length = w := List.length_take_of_le hw
  rw [rolw1_eq_onWindow hw, onWindow_getD_window rol1_length hw hk, rol1_getD (hk.trans_eq hlen.symm), hlen,
    getD_take (Nat.mod_lt _ (Nat.zero_lt_of_lt hk))]

theorem rorw1_getD_window (hw : w ≤ S.length) (hk : k < w) :
    (rorw1 w S).getD k false = S.getD ((k + w - 1) % w) false := by
  have hlen : (S.take w).length = w := List.length_take_of_le hw
  rw [rorw1_eq_onWindow hw, onWindow_getD_window ror1_length hw hk, ror1_getD (hk.trans_eq hlen.symm), hlen,
    getD_take (Nat.mod_lt _ (Nat.zero_lt_of_lt hk))]

theorem rolw1_getD_padding (hw : w ≤ S.length) (hk : w ≤ k) : (rolw1 w S).getD k false = S.getD k false := by
  rw [rolw1_eq_onWindow hw, onWindow_getD_padding rol1_length hw hk]

theorem rorw1_getD_padding (hw : w ≤ S.length) (hk : w ≤ k) : (rorw1 w S).getD k false = S.getD k false := by
  rw [rorw1_eq_onWindow hw, onWindow_getD_padding ror1_length hw hk]

/-- A rotation of one place or none is the identity. -/
theorem rotate_of_length_le_one (h : S.length ≤ 1) (n : Nat) : S.rotate n = S := by
  rw [← List.rotate_mod]
  interval_cases hlen : S.length
  · rw [List.length_eq_zero_iff.mp hlen, List.rotate_nil]
  · rw [Nat.mod_one, List.rotate_zero]

/-- Settles O38: inside the window each step is the rotation of w places, and a window of one place has nothing to rotate. -/
theorem windowStepPositions : Obligations.WindowStepPositions := by
  intro S w hpos hw
  refine ⟨fun k hk => ?_, ?_, fun k hk _ => rolw1_getD_padding hw hk, ?_, fun k hlow hk => ?_,
    fun k hk _ => rorw1_getD_padding hw hk, ?_, ?_⟩
  · rw [rolw1_getD_window hw (by omega), Nat.mod_eq_of_lt hk]
  · rw [rolw1_getD_window hw (by omega), Nat.sub_add_cancel hpos, Nat.mod_self]
  · rw [rorw1_getD_window hw hpos, Nat.zero_add, Nat.mod_eq_of_lt (by omega)]
  · rw [rorw1_getD_window hw hk, Nat.sub_add_comm hlow, Nat.add_mod_right, Nat.mod_eq_of_lt (by omega)]
  · rintro rfl
    rw [rolw1_eq_onWindow hw, rorw1_eq_onWindow hw]
    exact ⟨onWindow_full _ S, onWindow_full _ S⟩
  · rintro rfl
    have hone : (S.take 1).length ≤ 1 := List.length_take_le 1 S
    rw [rolw1_eq_onWindow hw, rorw1_eq_onWindow hw]
    exact ⟨onWindow_eq_self ((rol1_eq_rotate _).trans (rotate_of_length_le_one hone _)),
      onWindow_eq_self ((ror1_eq_rotate _).trans (rotate_of_length_le_one hone _))⟩

/-! ## The loop as one rotation of the window (43_rotate_window.md R167) -/

theorem iterate_rolw1 (hw : w ≤ S.length) (k : Nat) :
    Nat.iterate (rolw1 w) k S = onWindow (Nat.iterate rol1 k) w S :=
  iterate_onWindow rol1_length (fun _ => rolw1_eq_onWindow) hw k

theorem iterate_rorw1 (hw : w ≤ S.length) (k : Nat) :
    Nat.iterate (rorw1 w) k S = onWindow (Nat.iterate ror1 k) w S :=
  iterate_onWindow ror1_length (fun _ => rorw1_eq_onWindow) hw k

/-- The window is the high-order part of the number and the padding the low-order part (43_rotate_window.md R167). -/
theorem bitsValue_take_drop (w : Nat) (S : Bits) :
    bitsValue (S.take w) = bitsValue S / 2 ^ (S.length - w) ∧ bitsValue (S.drop w) = bitsValue S % 2 ^ (S.length - w) := by
  have hlow : bitsValue (S.drop w) < 2 ^ (S.length - w) := by simpa using bitsValue_lt (S.drop w)
  have hsplit : bitsValue S = 2 ^ (S.length - w) * bitsValue (S.take w) + bitsValue (S.drop w) := by
    conv_lhs => rw [← List.take_append_drop w S]
    rw [bitsValue_append, List.length_drop]
  rw [hsplit, Nat.mul_add_div (Nat.two_pow_pos _), Nat.div_eq_of_lt hlow, Nat.mul_add_mod, Nat.mod_eq_of_lt hlow]
  exact ⟨rfl, rfl⟩

theorem bitsValue_onWindow (f : Bits → Bits) (w : Nat) (S : Bits) :
    bitsValue (onWindow f w S) = bitsValue (f (S.take w)) * 2 ^ (S.length - w) + bitsValue S % 2 ^ (S.length - w) := by
  rw [onWindow, bitsValue_append, List.length_drop, (bitsValue_take_drop w S).2, Nat.mul_comm]

/-- Settles O39: the closed form of the full-buffer rotations (42_rotate.md R145) on the window. -/
theorem windowClosedForm : Obligations.WindowClosedForm := by
  intro S w k hk hw
  have hlen : (S.take w).length = w := List.length_take_of_le hw
  have hpos : 0 < w := Nat.zero_lt_of_lt hk
  have hrol : ∀ T, (Nat.iterate rol1 k T).length = T.length := iterate_length _ rol1_length k
  have hror : ∀ T, (Nat.iterate ror1 k T).length = T.length := iterate_length _ ror1_length k
  obtain ⟨hleft, hright, -, -, hvalue, -⟩ := rotationClosedForm (S.take w) k (hk.trans_eq hlen.symm)
  rw [hlen] at hleft hright hvalue
  rw [iterate_rolw1 hw, iterate_rorw1 hw]
  refine ⟨fun i hi => ?_, fun i hi => ?_, fun i hi _ => ⟨onWindow_getD_padding hrol hw hi, onWindow_getD_padding hror hw hi⟩,
    onWindow_length hrol w S, onWindow_length hror w S, ?_⟩
  · rw [onWindow_getD_window hrol hw hi, hleft i hi, getD_take (Nat.mod_lt _ hpos)]
  · rw [onWindow_getD_window hror hw hi, hright i hi, getD_take (Nat.mod_lt _ hpos)]
  · rw [bitsValue_onWindow, hvalue, (bitsValue_take_drop w S).1]

/-! ## ROLW and RORW (43_rotate_window.md R164, R165) -/

/-- The full-buffer rotation of the same direction. -/
def fullBuffer : Instr → Instr
  | .rolw => .rol
  | .rorw => .ror
  | i => i

theorem fullBuffer_rotates (hi : i = .rolw ∨ i = .rorw) : fullBuffer i = .rol ∨ fullBuffer i = .ror := by
  rcases hi with rfl | rfl
  · exact .inl rfl
  · exact .inr rfl

/-- The model's step of ROLW or RORW. -/
theorem rotationStep_windowed (hi : i = .rolw ∨ i = .rorw) (hw : w ≤ S.length) :
    rotationStep i w S = onWindow (rotationStep (fullBuffer i) w) w S := by
  rcases hi with rfl | rfl
  · exact rolw1_eq_onWindow hw
  · exact rorw1_eq_onWindow hw

/-- The string that the completion of a ROLW or RORW stores. -/
theorem completedBits_windowed {l : Latch} (hi : l.opl = .rolw ∨ l.opl = .rorw) (hw : l.wl ≤ S.length) :
    completedBits l S = onWindow (Nat.iterate (rotationStep (fullBuffer l.opl) l.wl) l.kl) l.wl S := by
  have hr : readsCount l.opl = true := by rcases hi with hi | hi <;> rw [hi] <;> rfl
  rw [completedBits, if_pos hr]
  exact iterate_onWindow (rotationStep_length _ _) (fun _ => rotationStep_windowed hi) hw _

theorem bitAt_completed_rolw (hi : s.latch.opl = .rolw) (hwl : s.latch.wl ≤ 8 * s.latch.lenl)
    (hkl : s.latch.kl < s.latch.wl) (hk : k < s.latch.wl) :
    bitAt (completed s) k = bitAt s ((k + s.latch.kl) % s.latch.wl) := by
  have hw : s.latch.wl ≤ (activeBits s.latch.lenl s).length := by rwa [activeBits_length]
  have hmod := Nat.mod_lt (k + s.latch.kl) (Nat.zero_lt_of_lt hk)
  obtain ⟨hleft, -⟩ := windowClosedForm _ _ _ hkl hw
  rw [bitAt_completed (hk.trans_le hwl), ← activeBits_getD _ _ _ (hmod.trans_le hwl), ← hleft k hk, completedBits, hi]
  rfl

theorem bitAt_completed_rorw (hi : s.latch.opl = .rorw) (hwl : s.latch.wl ≤ 8 * s.latch.lenl)
    (hkl : s.latch.kl < s.latch.wl) (hk : k < s.latch.wl) :
    bitAt (completed s) k = bitAt s ((k + s.latch.wl - s.latch.kl) % s.latch.wl) := by
  have hw : s.latch.wl ≤ (activeBits s.latch.lenl s).length := by rwa [activeBits_length]
  have hmod := Nat.mod_lt (k + s.latch.wl - s.latch.kl) (Nat.zero_lt_of_lt hk)
  obtain ⟨-, hright, -⟩ := windowClosedForm _ _ _ hkl hw
  rw [bitAt_completed (hk.trans_le hwl), ← activeBits_getD _ _ _ (hmod.trans_le hwl), ← hright k hk, completedBits, hi]
  rfl

/-- The padding is kept (43_rotate_window.md R161), also for a window of no place. -/
theorem bitAt_completed_padding (hi : s.latch.opl = .rolw ∨ s.latch.opl = .rorw) (hwl : s.latch.wl ≤ 8 * s.latch.lenl)
    (hlow : s.latch.wl ≤ k) (hk : k < 8 * s.latch.lenl) : bitAt (completed s) k = bitAt s k := by
  have hw : s.latch.wl ≤ (activeBits s.latch.lenl s).length := by rwa [activeBits_length]
  rw [bitAt_completed hk, completedBits_windowed hi hw,
    onWindow_getD_padding (iterate_length _ (rotationStep_length _ _) _) hw hlow, activeBits_getD _ _ _ hk]

/-- Settles O40: the loop of KL steps rotates the window by KL; a window of no place has no position to rotate. -/
theorem windowedRotationCompletes : Obligations.WindowedRotationCompletes := by
  refine fun s hbusy hwl hkl => ⟨fun hi => ?_, fun hi => ?_⟩
  · have hr : readsCount s.latch.opl = true := by rw [hi]; rfl
    exact ⟨_, exec_completes hbusy hi, completed_frame_of_rotation hr,
      fun k hk => bitAt_completed_rolw hi hwl (by omega) hk, fun k => bitAt_completed_padding (.inl hi) hwl,
      fun j => bufByte_completed_of_ge⟩
  · have hr : readsCount s.latch.opl = true := by rw [hi]; rfl
    exact ⟨_, exec_completes hbusy hi, completed_frame_of_rotation hr,
      fun k hk => bitAt_completed_rorw hi hwl (by omega) hk, fun k => bitAt_completed_padding (.inr hi) hwl,
      fun j => bufByte_completed_of_ge⟩

/-! ## A windowed rotation presented to an idle bound block -/

/-- An idle block with n bytes bound, whose active bit string is S, a window of w places in it, and the count c, which is not negative
as a word. -/
structure HoldsWindow (n w c : Nat) (S : Bits) (s : State) : Prop where
  holds : HoldsBits n S s
  window : s.window.toNat = w
  window_pos : 0 < w
  window_le : w ≤ 8 * n
  count : s.count.toNat = c
  count_lt : c < 2 ^ 31

/-- The block that the laws of R168 are about. -/
theorem holdsWindow_of_registers (hidle : s.busy = false) (hbound : s.bound = true) (hcount : 0 ≤ s.count.toInt)
    (hlow : 1 ≤ s.window.toInt) (hhigh : s.window.toInt ≤ 8 * (s.len.toNat : Int)) :
    HoldsWindow s.len.toNat s.window.toNat s.count.toNat (activeBits s.len.toNat s) s := by
  have hcountLt := BitVec.toInt_pos_iff.mp hcount
  have hwindow := BitVec.toInt_eq_toNat_of_lt (BitVec.toInt_pos_iff.mp (Int.le_trans (by decide) hlow))
  exact ⟨⟨hidle, hbound, rfl, rfl⟩, rfl, by omega, by omega, rfl, by omega⟩

theorem HoldsWindow.le_length (h : HoldsWindow n w c S s) : w ≤ S.length := by rw [h.holds.length]; exact h.window_le

theorem HoldsWindow.take_length (h : HoldsWindow n w c S s) : (S.take w).length = w := List.length_take_of_le h.le_length

theorem HoldsWindow.window_lt (h : HoldsWindow n w c S s) : w < 2 ^ 16 := by
  have hn : n < 2 ^ 13 := h.holds.len ▸ s.len.isLt
  have := h.window_le
  omega

theorem HoldsWindow.window_toInt (h : HoldsWindow n w c S s) : s.window.toInt = w := by
  have hwindow := h.window
  have hlt := h.window_lt
  rw [BitVec.toInt_eq_toNat_of_lt (by omega), hwindow]

theorem HoldsWindow.count_toInt (h : HoldsWindow n w c S s) : s.count.toInt = c := by
  have hcount := h.count
  have hlt := h.count_lt
  rw [BitVec.toInt_eq_toNat_of_lt (by omega), hcount]

/-- The operands of a windowed rotation are valid (60_exceptions.md R202). -/
theorem HoldsWindow.operandError_eq_none (h : HoldsWindow n w c S s) (i : Instr) : operandError i s = none := by
  have hlow : 0 ≤ signed32 s.window := by rw [signed32, h.window_toInt]; exact Int.natCast_nonneg w
  have hhigh : signed32 s.window ≤ (bitLength s : Int) := by
    rw [signed32, h.window_toInt, bitLength, h.holds.len]
    exact_mod_cast h.window_le
  have hcount : 0 ≤ signed32 s.count := by rw [signed32, h.count_toInt]; exact Int.natCast_nonneg c
  exact (operandError_eq_none_iff i s).mpr ⟨h.holds.bound, fun _ => hcount, fun _ => ⟨hlow, hhigh⟩⟩

/-- The string that an accepted ROLW or RORW stores: its window rotated by COUNT. -/
theorem HoldsWindow.completedBits_eq (h : HoldsWindow n w c S s) (hi : i = .rolw ∨ i = .rorw) :
    completedBits (acceptedLatch i s) S = onWindow (rotated (fullBuffer i) c) w S := by
  have hpos : 0 < (S.take w).length := h.window_pos.trans_eq h.take_length.symm
  have hloop := iterate_rotationStep (fullBuffer_rotates hi) hpos w c
  rw [h.take_length] at hloop
  rw [acceptedLatch_windowed hi, h.window_toInt, h.count_toInt, Int.toNat_natCast, Int.toNat_natCast,
    if_neg h.window_pos.ne', completedBits_windowed hi h.le_length, onWindow, hloop]
  rfl

/-- ROLW and RORW run to their end rotate the window by COUNT, and keep the registers and the inactive bytes. -/
theorem HoldsWindow.runs (h : HoldsWindow n w c S s) (hi : i = .rolw ∨ i = .rorw) :
    ∃ t, runCommand i s = .next t ∧ HoldsWindow n w c (onWindow (rotated (fullBuffer i) c) w S) t ∧
      ∀ j, n ≤ j → bufByte t j = bufByte s j := by
  have hvalid := h.operandError_eq_none i
  have hstored := h.completedBits_eq hi
  obtain ⟨⟨hidle, hbound, rfl, rfl⟩, hwindow, hpos, hle, hcount, hlt⟩ := h
  have hbits := (activeBits_completed (latchCommand (acceptedLatch i s) s)).trans hstored
  exact ⟨_, runCommand_of_accepted hidle hvalid, ⟨⟨rfl, hbound, rfl, hbits⟩, hwindow, hpos, hle, hcount, hlt⟩,
    fun _ => bufByte_completed_of_ge (s := latchCommand (acceptedLatch i s) s)⟩

/-- The same block with a count of its own. -/
theorem HoldsWindow.after_setCount (h : HoldsWindow n w c S s) {d : Nat} (hd : d < 2 ^ 31) :
    HoldsWindow n w d S (setCount (BitVec.ofNat 32 d) s) :=
  ⟨h.holds.after_setCount _, h.window, h.window_pos, h.window_le,
    by rw [setCount_count, BitVec.toNat_ofNat, Nat.mod_eq_of_lt (by omega)], hd⟩

/-! ## The laws (43_rotate_window.md R168) -/

/-- A windowed rotation and then one that undoes it on the window restore BUF. -/
theorem HoldsWindow.round_trip (h : HoldsWindow n w c S s) (hi : i = .rolw ∨ i = .rorw) (hi' : i' = .rolw ∨ i' = .rorw)
    (hback : ∀ T, rotated (fullBuffer i') c (rotated (fullBuffer i) c T) = T) :
    ∃ a t, runCommand i s = .next a ∧ runCommand i' a = .next t ∧ sameBuf s t := by
  obtain ⟨a, hrun, ha, hinactive⟩ := h.runs hi
  obtain ⟨t, hrun', ht, hinactive'⟩ := ha.runs hi'
  have hholds := ht.holds
  rw [onWindow_onWindow (rotated_length _ c) h.le_length, onWindow_eq_self (hback _)] at hholds
  exact ⟨a, t, hrun, hrun', h.holds.sameBuf_of_inactive hholds
    fun j hj => ((hinactive' j hj).trans (hinactive j hj)).symm⟩

/-- ROLW by COUNT, ROLW by its remainder and RORW by the rest of the window leave the same bytes; COUNT = WINDOW is no rotation. -/
theorem HoldsWindow.rolw_count_modulo (h : HoldsWindow n w c S s) :
    ∃ a b d, runCommand .rolw s = .next a ∧
      runCommand .rolw (setCount (BitVec.ofNat 32 (c % w)) s) = .next b ∧
      runCommand .rorw (setCount (BitVec.ofNat 32 ((w - c % w) % w)) s) = .next d ∧
      sameBuf a b ∧ sameBuf a d ∧ (c = w → sameBuf s a) := by
  have hsmall : ∀ m, m % w < 2 ^ 31 := fun m => (Nat.mod_lt m h.window_pos).trans (h.window_lt.trans (by decide))
  obtain ⟨a, hrunA, ha, hinactiveA⟩ := h.runs (i := .rolw) (.inl rfl)
  obtain ⟨b, hrunB, hb, hinactiveB⟩ := (h.after_setCount (hsmall c)).runs (i := .rolw) (.inl rfl)
  obtain ⟨d, hrunD, hd, hinactiveD⟩ := (h.after_setCount (hsmall (w - c % w))).runs (i := .rorw) (.inr rfl)
  have hmod := rotated_rol_mod c (S.take w)
  have hrest := rotated_ror_rest c (S.take w)
  rw [h.take_length] at hmod hrest
  have hholdsB : HoldsBits n (onWindow (rotated .rol c) w S) b := by rw [onWindow, ← hmod]; exact hb.holds
  have hholdsD : HoldsBits n (onWindow (rotated .rol c) w S) d := by rw [onWindow, ← hrest]; exact hd.holds
  refine ⟨a, b, d, hrunA, hrunB, hrunD,
    ha.holds.sameBuf_of_inactive hholdsB fun j hj => (hinactiveA j hj).trans (hinactiveB j hj).symm,
    ha.holds.sameBuf_of_inactive hholdsD fun j hj => (hinactiveA j hj).trans (hinactiveD j hj).symm, ?_⟩
  rintro rfl
  have hholdsA := ha.holds
  rw [onWindow_eq_self (rotated_of_mod_eq_zero (by rw [h.take_length, Nat.mod_self]) _)] at hholdsA
  exact h.holds.sameBuf_of_inactive hholdsA fun j hj => (hinactiveA j hj).symm

/-- With the whole buffer as its window, a windowed rotation does what the full-buffer rotation does. -/
theorem HoldsWindow.full_window (h : HoldsWindow n (8 * n) c S s) (hi : i = .rolw ∨ i = .rorw) :
    ∃ a b, runCommand i s = .next a ∧ runCommand (fullBuffer i) s = .next b ∧ sameBuf a b := by
  have hcount : 0 ≤ s.count.toInt := by rw [h.count_toInt]; exact Int.natCast_nonneg c
  obtain ⟨a, hrun, ha, hinactive⟩ := h.runs hi
  obtain ⟨b, hrun', hb⟩ := h.holds.rotation_runs (fullBuffer_rotates hi) hcount
  have hholds := ha.holds
  rw [← h.holds.length, onWindow_full, ← h.count] at hholds
  exact ⟨a, b, hrun, hrun', hholds.sameBuf_of_inactive hb.holds fun j hj => (hinactive j hj).trans (hb.inactive j hj).symm⟩

/-- A windowed rotation keeps the number of 1 bits in the window and every bit of the padding. -/
theorem HoldsWindow.rotation_keeps (h : HoldsWindow n w c S s) (hi : i = .rolw ∨ i = .rorw) :
    ∃ t, runCommand i s = .next t ∧
      ((activeBits n t).take w).count true = ((activeBits n s).take w).count true ∧
      ∀ k, w ≤ k → k < 8 * n → bitAt t k = bitAt s k := by
  have hlength := rotated_length (fullBuffer i) c
  obtain ⟨t, hrun, ht, -⟩ := h.runs hi
  refine ⟨t, hrun, ?_, fun k hlow hk => ?_⟩
  · rw [ht.holds.bits, h.holds.bits, take_onWindow hlength h.le_length, (rotated_perm _ c _).count_eq]
  · rw [ht.holds.bitAt_eq hk, h.holds.bitAt_eq hk, onWindow_getD_padding hlength h.le_length hlow]

/-- Settles O41: each law is the law of the full-buffer rotations (42_rotate.md R146) on the window. -/
theorem windowLaws : Obligations.WindowLaws := by
  intro s hidle hbound hcount hlow hhigh
  have h := holdsWindow_of_registers hidle hbound hcount hlow hhigh
  refine ⟨h.round_trip (.inl rfl) (.inr rfl) (rotated_ror_rol _), h.round_trip (.inr rfl) (.inl rfl) (rotated_rol_ror _),
    ?_, fun hfull => ?_, fun i => h.rotation_keeps⟩
  · obtain ⟨a, b, c, hrunA, hrunB, hrunC, hab, hac, hidentity⟩ := h.rolw_count_modulo
    exact ⟨a, b, c, hrunA, hrunB, hrunC, hab, hac, fun heq => hidentity (congrArg BitVec.toNat heq)⟩
  · have hwindow : s.window.toNat = 8 * s.len.toNat := by have := h.window_toInt; omega
    rw [hwindow] at h
    obtain ⟨a, b, hrolw, hrol, hab⟩ := h.full_window (i := .rolw) (.inl rfl)
    obtain ⟨c, d, hrorw, hror, hcd⟩ := h.full_window (i := .rorw) (.inr rfl)
    exact ⟨a, b, c, d, hrolw, hrol, hab, hrorw, hror, hcd⟩

end Sys2Proof.Machine
end

section
/-!
PROOFS. Command errors and bus errors (60_exceptions.md): no step stops the machine (R206, R207), what each failed check of a presented
word writes and in which order the checks are made (R201, R202), and which transactions get a bus error response (R210).
-/

namespace Sys2Proof.Machine

variable {i : Instr} {s : State} {v : Word} {off : Offset} {n : Nat}

/-! ## Every step goes on -/

/-- A host with nothing to do only uses its turn up (log 3). -/
theorem step_of_no_pending (hagent : nextAgent s = .host) (hp : s.pending = []) : step s = .next (popSchedule s) := by
  rw [step_of_host s hagent, hostMove, hp]
  rfl

/-- Settles O5: by the agent that takes the step. A host operation gets its one response (20_memory.md R51), and a completion has no check
that could fail (60_exceptions.md R206). -/
theorem everyStepAnswersNext : Obligations.EveryStepAnswersNext := by
  intro s
  rcases step_cases s with ⟨-, hs⟩ | ⟨-, hbusy, hs⟩ | ⟨-, -, hs⟩ | ⟨hagent, -⟩
  · exact ⟨_, hs⟩
  · rw [exec_completes hbusy rfl, mapNext_next] at hs
    exact ⟨_, hs⟩
  · exact ⟨_, hs⟩
  · cases hp : s.pending with
    | nil => exact ⟨_, step_of_no_pending hagent hp⟩
    | cons op rest =>
      obtain ⟨t, -, hs, -⟩ := errorResponseChangesNothing s op ⟨hagent, congrArg List.head? hp⟩
      exact ⟨t, hs⟩

/-- Settles O6: the engine's turn is the completion, whose frame names the fields it writes. -/
theorem completionNeverFails : Obligations.CompletionNeverFails := by
  intro s hbusy hagent
  refine ⟨popSchedule (completed s), ?_, rfl, rfl, congrArg popSchedule (completed_frame s)⟩
  rw [step_of_engine hagent hbusy, exec_completes hbusy rfl, mapNext_next]

/-! ## The checks on a command's operands, in their order (60_exceptions.md R202) -/

/-- NULL_BUFFER: the first check. -/
theorem operandError_of_unbound (hbound : s.bound = false) : operandError i s = some .nullBuffer := if_pos hbound

/-- NEGATIVE_COUNT: the second check, of the commands that have a count. -/
theorem operandError_of_negativeCount (hbound : s.bound = true) (hi : readsCount i = true) (hcount : s.count.toInt < 0) :
    operandError i s = some .negativeCount := by
  rw [operandError, if_neg (by simp [hbound]), if_pos ⟨hi, hcount⟩]

/-- INVALID_WINDOW: the third check, of the commands that have a window. -/
theorem operandError_of_invalidWindow (hbound : s.bound = true) (hcount : 0 ≤ s.count.toInt) (hi : readsWindow i = true)
    (hwindow : s.window.toInt < 0 ∨ s.window.toInt > 8 * (s.len.toNat : Int)) :
    operandError i s = some .invalidWindow := by
  have hbits : (bitLength s : Int) = 8 * (s.len.toNat : Int) := Nat.cast_mul 8 _
  rw [operandError, if_neg (by simp [hbound]), if_neg fun hneg => (Int.not_lt.mpr hcount) hneg.2,
    if_pos ⟨hi, by rwa [hbits]⟩]

/-- The commands with a window are the two windowed rotations. -/
theorem readsWindow_iff (i : Instr) : readsWindow i = true ↔ i = .rolw ∨ i = .rorw := by
  cases i <;> decide

/-- The commands whose COUNT is not checked are the two shifts. -/
theorem count_nonneg_of_readsCount (h : i = .shl ∨ i = .shr ∨ 0 ≤ s.count.toInt) (hi : readsCount i = true) :
    0 ≤ s.count.toInt := by
  rcases h with rfl | rfl | hcount
  · cases hi
  · cases hi
  · exact hcount

/-! ## Rejection and acceptance of a presented word -/

/-- A command whose operands fail a check gets the code of that check, and OKAY (60_exceptions.md R201). -/
theorem step_of_rejected {e : CmdErr} (h : presents s (encode i)) (hreject : operandError i s = some e) :
    step s = .next (hostDone (.write .okay) (raiseCmdError e s)) := by
  rw [step_of_command h (decode_encode i), exec_idle i s h.2, acceptCommand, hreject]
  rfl

/-- Settles O17: the illegal word, then one lemma for each failed check, then the acceptance when none fails. -/
theorem commandErrorPriority : Obligations.CommandErrorPriority := by
  refine ⟨⟨rfl, rfl, rfl, rfl, rfl⟩, fun s v h => ⟨fun hword => ?_, ?_⟩⟩
  · obtain ⟨why, hd⟩ := (forall_ne_encode_iff v).mp hword
    exact step_of_illegalWord h hd
  · rintro i rfl
    refine ⟨fun hbound => ?_, fun hbound => ⟨fun hl hr hcount => ?_, fun hi hcount hwindow => ?_, fun hcount hwindow => ?_⟩⟩
    · exact step_of_rejected h (operandError_of_unbound hbound)
    · exact step_of_rejected h (operandError_of_negativeCount hbound (readsCount_of_ne hl hr) hcount)
    · exact step_of_rejected h (operandError_of_invalidWindow hbound hcount ((readsWindow_iff i).mpr hi) hwindow)
    · have hvalid : operandError i s = none := (operandError_eq_none_iff i s).mpr
        ⟨hbound, count_nonneg_of_readsCount hcount, fun hi => by
          have hrange := hwindow ((readsWindow_iff i).mp hi)
          rwa [bitLength, Nat.cast_mul]⟩
      exact ⟨_, acceptanceIsOneTransaction s _ i h (decode_encode i) hvalid, rfl, rfl, rfl⟩

/-- What a presented word can do: be rejected with some error, or start a command. -/
theorem step_of_presents_cases (h : presents s v) :
    (∃ e, e ≠ .none ∧ step s = .next (hostDone (.write .okay) (raiseCmdError e s))) ∨
    (∃ i, step s = .next (hostDone (.write .okay) (latchCommand (acceptedLatch i s) s))) := by
  rw [step_of_presents s v h]
  rcases presentWord_idle v s h.2 with ⟨-, -, hp⟩ | ⟨i, -, hp⟩ <;> rw [hp]
  · exact .inl ⟨.illegalCommand, nofun, rfl⟩
  · rcases acceptCommand_cases i s with ⟨e, -, hne, ha⟩ | ⟨-, ha⟩ <;> rw [ha]
    · exact .inl ⟨e, hne, rfl⟩
    · exact .inr ⟨i, rfl⟩

/-- The code 0 is that of success alone (10_state.md R29). -/
theorem errCode_ne_zero {e : CmdErr} (h : e ≠ .none) : errCode e ≠ 0#3 := by
  cases e with
  | none => exact absurd rfl h
  | nullBuffer | negativeCount | invalidWindow | illegalCommand => decide

/-- A STATUS read shows ERR in bits 6:4 (10_state.md R24). -/
theorem step_of_statusRead (h : hostDoes s (.read statusOffset 4)) :
    ∃ w, step s = .next (hostDone (.read .okay (.word w)) s) ∧ w.extractLsb' 4 3 = errCode s.err := by
  obtain ⟨-, -, -, -, herr, -⟩ := statusWord_fields s
  exact ⟨statusWord s, step_of_registerRead (r := .status) h, herr⟩

/-- Settles O18: a word that starts no command is rejected, and the next state's ERR is what a STATUS read shows. -/
theorem rejectionWritesOnlyErr : Obligations.RejectionWritesOnlyErr := by
  intro s v h
  rcases step_of_presents_cases h with ⟨e, hne, hs⟩ | ⟨i, hs⟩
  · exact ⟨_, hs, .inr ⟨e, hne, errCode_ne_zero hne, rfl, step_of_statusRead⟩⟩
  · exact ⟨_, hs, .inl rfl⟩

/-! ## The causes of a bus error response (60_exceptions.md R210) -/

/-- A size other than 1 or 4 reaches nothing (20_memory.md R50). -/
theorem target_size_eq_nothing (s : State) (off : Offset) (h1 : n ≠ 1) (h4 : n ≠ 4) : target s off n = .nothing := by
  rw [target, if_neg h1, if_neg h4]

/-- Nothing lies between the registers and BUF (20_memory.md R53, R58). -/
theorem target_hole_eq_nothing (hlow : 0x1C ≤ off.toNat) (hhigh : off.toNat ≤ 0xFFF) : target s off n = .nothing := by
  rcases target_cases s off n with ht | ⟨i, -, -, hoff, -⟩ | ⟨i, -, -, hoff, -⟩ | ⟨r, -, -, rfl⟩
  · exact ht
  · omega
  · omega
  · have := (registerOffset_toNat r).1; omega

/-- A register's offset reaches nothing by any size but 4 (20_memory.md R54). -/
theorem target_registerOffset_eq_nothing (s : State) (r : Register) (h4 : n ≠ 4) :
    target s (registerOffset r) n = .nothing := by
  by_cases h1 : n = 1
  · exact target_low_eq_nothing ((registerOffset_toNat r).1.trans (by decide)) (.inl h1)
  · exact target_size_eq_nothing s _ h1 h4

/-- While a command is in flight, a write of any size at the offset of CMD, COUNT, WINDOW or LEN is refused (70_reset_and_hazards.md
R240). -/
theorem step_of_hazardWrite_busy {r : Register} (hbusy : s.busy = true) (hr : refusedWhileBusy r = true)
    (h : hostDoes s (.write (registerOffset r) n v)) : step s = .next (hostDone (.write .error) s) := by
  by_cases h4 : n = 4
  · subst h4
    exact step_of_refusedWrite h hbusy hr
  · exact (refuses_of_nothing (target_registerOffset_eq_nothing s r h4)).2 h

/-- Settles O50: a transaction with one of the causes reaches nothing, or reaches BUF or a register's write while BUSY = 1. -/
theorem busErrorCauses : Obligations.BusErrorCauses := by
  refine fun s off n v => ⟨fun hcause => ?_, fun hbusy hoff h => ?_, rfl, rfl⟩
  · have hbuf : 0x1000 ≤ off.toNat → off.toNat = 0x1000 + (off.toNat - 0x1000) := fun hle => by omega
    rcases hcause with ⟨h1, h4⟩ | ⟨hle, hbad⟩ | ⟨hle, h4, hmis⟩ | ⟨hlow, hhigh⟩ | hpast | ⟨hbusy, hle⟩
    · exact refuses_of_nothing (target_size_eq_nothing s off h1 h4)
    · exact refuses_of_nothing (target_low_eq_nothing hle hbad)
    · exact refuses_of_nothing (target_high_eq_nothing (hbuf hle) (.inl ⟨h4, by omega⟩))
    · exact refuses_of_nothing (target_hole_eq_nothing hlow hhigh)
    · exact refuses_of_nothing (target_high_eq_nothing (hbuf (by omega)) (.inr (by omega)))
    · exact refuses_of_busy (hbuf hle) hbusy
  · rcases hoff with rfl | rfl | rfl | rfl
    · exact step_of_hazardWrite_busy (r := .cmd) hbusy rfl h
    · exact step_of_hazardWrite_busy (r := .count) hbusy rfl h
    · exact step_of_hazardWrite_busy (r := .window) hbusy rfl h
    · exact step_of_hazardWrite_busy (r := .len) hbusy rfl h

end Sys2Proof.Machine
end

section
/-!
PROOFS. Reset and the BUSY hazard (70_reset_and_hazards.md): the platform's reset step (R230, R231), what the host can and cannot do while a
command is in flight (R240), the host's duty (R241) and the end of a host program (R244).
-/

namespace Sys2Proof.Machine

variable {s : State} {off : Offset} {n : Nat} {v : Word} {r : Register}

/-! ## Reset and the end of a program -/

theorem step_of_platform (hagent : nextAgent s = .platform) : step s = .next (popSchedule (takeReset s)) := by
  rw [step, hagent, move, mapNext_next]

/-- Settles O4: every field is set by the definition of the reset; BUF, with no byte listed, reads as the new reset's draw. -/
theorem resetStepClearsBlock : Obligations.ResetStepClearsBlock := fun _ hagent =>
  ⟨_, step_of_platform hagent, rfl, rfl, rfl, rfl, rfl, rfl, rfl, rfl, fun _ => rfl, rfl, rfl, rfl⟩

theorem ended_iff (s : State) : ended s = true ↔ s.pending = [] ∧ s.busy = false := by
  simp [ended]

theorem popSchedule_of_unscheduled (h : s.schedule = []) : popSchedule s = s := by
  rw [popSchedule, h, List.tail_nil, ← h]

/-- Settles O9: the turn is the host's (log 2), which has nothing to do (log 3), and no scheduled turn is used up. -/
theorem endedProgramStays : Obligations.EndedProgramStays := by
  intro s hended hnil
  obtain ⟨hpending, hidle⟩ := (ended_iff s).mp hended
  have hagent : nextAgent s = .host := by rw [nextAgent_unscheduled hnil, hidle]; rfl
  rw [step_of_no_pending hagent hpending, popSchedule_of_unscheduled hnil]

/-! ## The BUSY hazard (70_reset_and_hazards.md R240) -/

/-- The registers whose writes are refused while BUSY = 1 are those at four offsets. -/
theorem exists_hazardRegister (h : off = 0x000#13 ∨ off = 0x008#13 ∨ off = 0x00C#13 ∨ off = 0x010#13) :
    ∃ r, off = registerOffset r ∧ refusedWhileBusy r = true := by
  rcases h with rfl | rfl | rfl | rfl
  exacts [⟨.cmd, rfl, rfl⟩, ⟨.count, rfl, rfl⟩, ⟨.window, rfl, rfl⟩, ⟨.len, rfl, rfl⟩]

/-- STATUS, ID and CFG, whose writes are ignored at any time, are at three offsets. -/
theorem exists_ignoringRegister (h : off = 0x004#13 ∨ off = 0x014#13 ∨ off = 0x018#13) :
    ∃ r, off = registerOffset r ∧ refusedWhileBusy r = false := by
  rcases h with rfl | rfl | rfl
  exacts [⟨.status, rfl, rfl⟩, ⟨.id, rfl, rfl⟩, ⟨.cfg, rfl, rfl⟩]

/-- Only STATUS shows BUSY. -/
theorem readRegister_ignores_busy (hr : r ≠ .status) (s : State) (b : Bool) :
    readRegister r s = readRegister r { s with busy := b } := by
  cases r with
  | status => exact absurd rfl hr
  | cmd | count | window | len | id | cfg => rfl

/-- Settles O53: one clause each for the refused register writes, the BUF transactions, the register reads and the ignored writes. -/
theorem busyHazard : Obligations.BusyHazard := by
  refine fun s off n v hbusy => ⟨fun hoff h => ?_, fun hlow _ => ?_, fun r hoff h => ?_, fun hoff h => ?_⟩
  · obtain ⟨r, rfl, hr⟩ := exists_hazardRegister hoff
    exact step_of_hazardWrite_busy hbusy hr h
  · exact refuses_of_busy (Nat.add_sub_of_le hlow).symm hbusy
  · subst hoff
    exact ⟨step_of_registerRead h, fun hr => readRegister_ignores_busy hr s false⟩
  · obtain ⟨r, rfl, hr⟩ := exists_ignoringRegister hoff
    exact step_of_ignoredWrite h hr

/-! ## The host's duty (70_reset_and_hazards.md R241) -/

theorem busy_of_undutiful (h : keepsDuty s = false) : s.busy = true := by
  cases hbusy : s.busy with
  | true => rfl
  | false => rw [keepsDuty, hbusy] at h; cases h

/-- A read is against the duty when it is a BUF transaction. -/
theorem keepsDuty_of_read (hbusy : s.busy = true) (h : hostDoes s (.read off n)) : keepsDuty s = !inBuf s off.toNat := by
  rw [keepsDuty, hbusy, h.2]
  rfl

/-- A write is against the duty when it is a BUF transaction or at a register whose writes are refused. -/
theorem keepsDuty_of_write (hbusy : s.busy = true) (h : hostDoes s (.write off n v)) :
    keepsDuty s = (!inBuf s off.toNat && !(registerAt off.toNat).any refusedWhileBusy) := by
  rw [keepsDuty, hbusy, h.2]
  cases hreg : registerAt off.toNat <;> simp [hreg]

/-- Polling STATUS is always within the duty. -/
theorem keepsDuty_of_waitIdle (h : hostDoes s .waitIdle) : keepsDuty s = true := by
  rw [keepsDuty, h.2, Bool.or_true]

/-- A register is found at its own offset only (20_memory.md R53). -/
theorem eq_registerOffset_of_registerAt (h : registerAt off.toNat = some r) : off = registerOffset r := by
  revert h
  unfold registerAt
  split_ifs with hoff hoff hoff hoff hoff hoff hoff <;> rintro ⟨⟩ <;> exact BitVec.eq_of_toNat_eq hoff

/-- While a command is in flight, every transaction in the BUF region is refused. -/
theorem refuses_of_inBuf_busy (hbuf : inBuf s off.toNat = true) (hbusy : s.busy = true) : Refuses s off n v := by
  have hlow : 0x1000 ≤ off.toNat := of_decide_eq_true (Bool.and_eq_true_iff.mp hbuf).1
  exact refuses_of_busy (Nat.add_sub_of_le hlow).symm hbusy

/-- Settles O54: by the kind of operation; one against the duty is a BUF transaction or the write of a hazard register. -/
theorem undutifulTransactionIsRefused : Obligations.UndutifulTransactionIsRefused := by
  intro s op h hduty
  have hbusy := busy_of_undutiful hduty
  cases op with
  | waitIdle => cases (keepsDuty_of_waitIdle h).symm.trans hduty
  | read off n =>
    rw [keepsDuty_of_read hbusy h, Bool.not_eq_false'] at hduty
    exact ⟨.read .error (zeroData n), rfl, (refuses_of_inBuf_busy (v := 0#32) hduty hbusy).1 h⟩
  | write off n v =>
    refine ⟨.write .error, rfl, ?_⟩
    rw [keepsDuty_of_write hbusy h, Bool.and_eq_false_iff, Bool.not_eq_false', Bool.not_eq_false', Option.any_eq_true] at hduty
    rcases hduty with hbuf | ⟨r, hreg, hr⟩
    · exact (refuses_of_inBuf_busy hbuf hbusy).2 h
    · cases eq_registerOffset_of_registerAt hreg
      exact step_of_hazardWrite_busy hbusy hr h

end Sys2Proof.Machine
end
